-- ==== Sys2Proof/Word.lean ====
section
/-! DEFINITION. The word types of the block: bytes, the microsecond count, and line levels. -/

namespace Sys2Proof

/-- A bus byte, 8 bits, unsigned (00_scope R5, R7). -/
abbrev Byte := BitVec 8

/-- A value of `micros()`, 32 bits, unsigned, wrapping (00_scope R5, 40_timing R414). -/
abbrev Micros := BitVec 32

/-- The two levels of a line: asserted is `low`, released is `high` (00_scope R8). -/
inductive Level where
  | low
  | high
  deriving DecidableEq, Repr, Inhabited

end Sys2Proof
end

