-- ==== Sys2Proof/Syntax.lean ====
section
/-! DEFINITION. The bus commands, one constructor for each row of spec/opcode_table.json, in the table's order.

An operand is a field of the command's encoding: every bit the row's mask leaves free is in some operand, so that a
reserved secondary, which reaches the device unchanged (30_encoding R341), keeps all its bits. -/

namespace Sys2Proof

/-- The five command formats (30_encoding R300). -/
inductive Format where
  /-- the primary byte -/
  | pri
  /-- the secondary byte -/
  | sec
  /-- a channel-15 command string -/
  | cmd15
  /-- the 8-bit sum of an uploaded Epyx routine -/
  | epyxSum
  /-- the filename length after an Epyx load routine -/
  | epyxHdr
  deriving DecidableEq, Repr

/-- The commands. -/
inductive Instr where
  /-- `NULL_PRIMARY`: 0x00 as a primary (R342) -/
  | nullPrimary
  /-- `UNLISTEN`: 0x3F (R515) -/
  | unlisten
  /-- `UNTALK`: 0x5F (R516) -/
  | untalk
  /-- `LISTEN`: 0x20 | addr, addr 0 to 30 (R513, R520) -/
  | listen (addr : BitVec 5)
  /-- `TALK`: 0x40 | addr, addr 0 to 30 (R514, R520) -/
  | talk (addr : BitVec 5)
  /-- `RESERVED_PRIMARY_LOW`: 0x01 to 0x1F (R340) -/
  | reservedPrimaryLow (low : BitVec 5)
  /-- `RESERVED_PRIMARY_60`: 0x60 to 0x7F (R340) -/
  | reservedPrimary60 (low : BitVec 5)
  /-- `RESERVED_PRIMARY_80`: 0x80 to 0xFF (R340) -/
  | reservedPrimary80 (low : BitVec 7)
  /-- `CLOSE15_IGNORED`: 0xEF (R518) -/
  | close15Ignored
  /-- `DATA`: 0x60 | chan (R513, R514) -/
  | dataCh (chan : BitVec 4)
  /-- `CLOSE`: 0xE0 | chan, chan 0 to 14 (R513, R514) -/
  | closeCh (chan : BitVec 4)
  /-- `OPEN`: 0xF0 | chan (R513) -/
  | openCh (chan : BitVec 4)
  /-- `RESERVED_SECONDARY_0_3`: groups 0x0 to 0x3; `grp` is bits 5 and 4 (R341) -/
  | reservedSecondary03 (grp : BitVec 2) (chan : BitVec 4)
  /-- `RESERVED_SECONDARY_4_5`: groups 0x4 and 0x5; `grp` is bit 4 (R341) -/
  | reservedSecondary45 (grp : BitVec 1) (chan : BitVec 4)
  /-- `RESERVED_SECONDARY_7`: group 0x7 (R341) -/
  | reservedSecondary7 (chan : BitVec 4)
  /-- `RESERVED_SECONDARY_8_B`: groups 0x8 to 0xB; `grp` is bits 5 and 4 (R341) -/
  | reservedSecondary8B (grp : BitVec 2) (chan : BitVec 4)
  /-- `RESERVED_SECONDARY_C_D`: groups 0xC and 0xD; `grp` is bit 4 (R341) -/
  | reservedSecondaryCD (grp : BitVec 1) (chan : BitVec 4)
  /-- `XQ` (R708) -/
  | xq
  /-- `XZ` (R708) -/
  | xz
  /-- `XF+` (R709) -/
  | xfPlus
  /-- `XF-` (R709) -/
  | xfMinus
  /-- `M-W`: address, length byte, and those of the `len` payload bytes that the captured string holds (R304, R802) -/
  | memWrite (addr : BitVec 16) (len : Byte) (payload : List Byte)
  /-- `M-E`: address (R305, R803) -/
  | memExecute (addr : BitVec 16)
  /-- `EPYX_LOAD_V1`: sum 0x26 (R808) -/
  | epyxLoadV1
  /-- `EPYX_LOAD_V2`: sum 0x86 (R808) -/
  | epyxLoadV2
  /-- `EPYX_LOAD_V3`: sum 0xAA (R808) -/
  | epyxLoadV3
  /-- `EPYX_SECTOR_0B`: sum 0x0B (R808) -/
  | epyxSector0B
  /-- `EPYX_SECTOR_B8`: sum 0xB8 (R808) -/
  | epyxSectorB8
  /-- `EPYX_SECTOR_BA`: sum 0xBA (R808) -/
  | epyxSectorBA
  /-- `EPYX_UNKNOWN_SUM`: every other sum (R808, R818) -/
  | epyxUnknownSum (sum : Byte)
  /-- `EPYXHDR`: the filename length; the name follows on the wire (R307, R809) -/
  | epyxHdr (len : Byte)
  deriving DecidableEq, Repr

end Sys2Proof
end

