-- ==== Sys2Proof/WellFormed.lean ====
section
/-! DEFINITION. Which terms of `Instr` stand for a command: the table's `excludes`, and the payload of `M-W`. -/

namespace Sys2Proof

/-- The six known routine sums (30_encoding R306). -/
def knownSums : List Byte := [0x26, 0x86, 0xAA, 0x0B, 0xB8, 0xBA]

/-- Address 31 is no device address (00_scope R5); 0x00 is `NULL_PRIMARY`; 0xEF is `CLOSE15_IGNORED`; a payload holds
at most `len` bytes (30_encoding R304); an unknown sum is none of the six (44_epyx R808). -/
def Instr.wellFormed : Instr → Bool
  | .listen addr => addr != 31
  | .talk addr => addr != 31
  | .reservedPrimaryLow low => low != 0
  | .closeCh chan => chan != 15
  | .memWrite _ len payload => payload.length ≤ len.toNat
  | .epyxUnknownSum sum => !(knownSums.contains sum)
  | .nullPrimary => true
  | .unlisten => true
  | .untalk => true
  | .reservedPrimary60 _ => true
  | .reservedPrimary80 _ => true
  | .close15Ignored => true
  | .dataCh _ => true
  | .openCh _ => true
  | .reservedSecondary03 _ _ => true
  | .reservedSecondary45 _ _ => true
  | .reservedSecondary7 _ => true
  | .reservedSecondary8B _ _ => true
  | .reservedSecondaryCD _ _ => true
  | .xq => true
  | .xz => true
  | .xfPlus => true
  | .xfMinus => true
  | .memExecute _ => true
  | .epyxLoadV1 => true
  | .epyxLoadV2 => true
  | .epyxLoadV3 => true
  | .epyxSector0B => true
  | .epyxSectorB8 => true
  | .epyxSectorBA => true
  | .epyxHdr _ => true

end Sys2Proof
end

