-- ==== Sys2Proof/Decode.lean ====
section
/-! DEFINITION. The decoder of each command format (30_encoding R300, R320 to R322), total on any bytes and rejecting
by name, and after it the encoder. -/

namespace Sys2Proof

/-- Why a byte string is no command of a format. -/
inductive DecodeError where
  /-- the string holds no byte -/
  | empty
  /-- a channel-15 string that matches no command: its meaning is the device's (30_encoding R343) -/
  | notACommand
  deriving DecidableEq, Repr

/-- `b[4:0]` of a primary byte (30_encoding R320). -/
def addrField (p : Byte) : BitVec 5 := p.extractLsb' 0 5

/-- `s[3:0]` of a secondary byte (30_encoding R320). -/
def chanField (s : Byte) : BitVec 4 := s.extractLsb' 0 4

/-- A 16-bit command address `(hi << 8) | lo` (30_encoding R304, R305, R320). -/
def addr16 (lo hi : Byte) : BitVec 16 := hi ++ lo

/-- The low byte of a 16-bit address. -/
def loByte (a : BitVec 16) : Byte := a.extractLsb' 0 8

/-- The high byte of a 16-bit address. -/
def hiByte (a : BitVec 16) : Byte := a.extractLsb' 8 8

/-- `decode_primary` (30_encoding R321): first match, in that rule's order; the reserved primaries fall into the
table's three rows. -/
def decodePrimary (p : Byte) : Instr :=
  if p = 0x00 then .nullPrimary
  else if p = 0x3F then .unlisten
  else if p = 0x5F then .untalk
  else if p &&& 0xE0 = 0x20 then .listen (addrField p)
  else if p &&& 0xE0 = 0x40 then .talk (addrField p)
  else if p &&& 0xE0 = 0x00 then .reservedPrimaryLow (addrField p)
  else if p &&& 0xE0 = 0x60 then .reservedPrimary60 (addrField p)
  else .reservedPrimary80 (p.extractLsb' 0 7)

/-- `decode_secondary` (30_encoding R322): first match, in that rule's order; the reserved secondaries fall into the
table's five rows. -/
def decodeSecondary (s : Byte) : Instr :=
  if s = 0xEF then .close15Ignored
  else if s &&& 0xF0 = 0x60 then .dataCh (chanField s)
  else if s &&& 0xF0 = 0xE0 then .closeCh (chanField s)
  else if s &&& 0xF0 = 0xF0 then .openCh (chanField s)
  else if s &&& 0xF0 = 0x70 then .reservedSecondary7 (chanField s)
  else if s &&& 0xE0 = 0x40 then .reservedSecondary45 (s.extractLsb' 4 1) (chanField s)
  else if s &&& 0xE0 = 0xC0 then .reservedSecondaryCD (s.extractLsb' 4 1) (chanField s)
  else if s &&& 0xC0 = 0x00 then .reservedSecondary03 (s.extractLsb' 4 2) (chanField s)
  else .reservedSecondary8B (s.extractLsb' 4 2) (chanField s)

/-- The channel-15 commands (30_encoding R303 to R305; the length tests of 41_iec_core R525). A command matches when
its bytes are a prefix of the string; bytes after it are ignored. -/
def decodeCmd15 : List Byte → Except DecodeError Instr
  | [] => .error .empty
  | 0x58 :: 0x51 :: _ => .ok .xq
  | 0x58 :: 0x5A :: _ => .ok .xz
  | 0x58 :: 0x46 :: 0x2B :: _ => .ok .xfPlus
  | 0x58 :: 0x46 :: 0x2D :: _ => .ok .xfMinus
  | 0x4D :: 0x2D :: 0x57 :: lo :: hi :: len :: d => .ok (.memWrite (addr16 lo hi) len (d.take len.toNat))
  | 0x4D :: 0x2D :: 0x45 :: lo :: hi :: _ => .ok (.memExecute (addr16 lo hi))
  | _ :: _ => .error .notACommand

/-- The routine sums (30_encoding R306, 44_epyx R808). -/
def decodeEpyxSum (sum : Byte) : Instr :=
  if sum = 0x26 then .epyxLoadV1
  else if sum = 0x86 then .epyxLoadV2
  else if sum = 0xAA then .epyxLoadV3
  else if sum = 0x0B then .epyxSector0B
  else if sum = 0xB8 then .epyxSectorB8
  else if sum = 0xBA then .epyxSectorBA
  else .epyxUnknownSum sum

/-- The decoder: the bytes of a command, read in a format (30_encoding R300). A one-byte format reads the first byte. -/
def decode (f : Format) (bytes : List Byte) : Except DecodeError Instr :=
  match f with
  | .cmd15 => decodeCmd15 bytes
  | .pri => match bytes with
    | [] => .error .empty
    | b :: _ => .ok (decodePrimary b)
  | .sec => match bytes with
    | [] => .error .empty
    | b :: _ => .ok (decodeSecondary b)
  | .epyxSum => match bytes with
    | [] => .error .empty
    | b :: _ => .ok (decodeEpyxSum b)
  | .epyxHdr => match bytes with
    | [] => .error .empty
    | b :: _ => .ok (.epyxHdr b)

/-- The format a command belongs to (spec/opcode_table.json). -/
def formatOf : Instr → Format
  | .nullPrimary | .unlisten | .untalk | .listen _ | .talk _ => .pri
  | .reservedPrimaryLow _ | .reservedPrimary60 _ | .reservedPrimary80 _ => .pri
  | .close15Ignored | .dataCh _ | .closeCh _ | .openCh _ => .sec
  | .reservedSecondary03 _ _ | .reservedSecondary45 _ _ | .reservedSecondary7 _ => .sec
  | .reservedSecondary8B _ _ | .reservedSecondaryCD _ _ => .sec
  | .xq | .xz | .xfPlus | .xfMinus | .memWrite _ _ _ | .memExecute _ => .cmd15
  | .epyxLoadV1 | .epyxLoadV2 | .epyxLoadV3 => .epyxSum
  | .epyxSector0B | .epyxSectorB8 | .epyxSectorBA | .epyxUnknownSum _ => .epyxSum
  | .epyxHdr _ => .epyxHdr

/-! The byte of each one-byte command with operands: the fixed bits of its table row, then its operands. -/

/-- 0x20 | addr. -/
def listenByte (addr : BitVec 5) : Byte := 0b001#3 ++ addr

/-- 0x40 | addr. -/
def talkByte (addr : BitVec 5) : Byte := 0b010#3 ++ addr

/-- 0x01 to 0x1F. -/
def reservedLowByte (low : BitVec 5) : Byte := 0b000#3 ++ low

/-- 0x60 to 0x7F. -/
def reserved60Byte (low : BitVec 5) : Byte := 0b011#3 ++ low

/-- 0x80 to 0xFF. -/
def reserved80Byte (low : BitVec 7) : Byte := 0b1#1 ++ low

/-- 0x60 | chan. -/
def dataByte (chan : BitVec 4) : Byte := 0x6#4 ++ chan

/-- 0xE0 | chan. -/
def closeByte (chan : BitVec 4) : Byte := 0xE#4 ++ chan

/-- 0xF0 | chan. -/
def openByte (chan : BitVec 4) : Byte := 0xF#4 ++ chan

/-- Groups 0x0 to 0x3. -/
def secondary03Byte (grp : BitVec 2) (chan : BitVec 4) : Byte := 0b00#2 ++ grp ++ chan

/-- Groups 0x4 and 0x5. -/
def secondary45Byte (grp : BitVec 1) (chan : BitVec 4) : Byte := 0b010#3 ++ grp ++ chan

/-- Group 0x7. -/
def secondary7Byte (chan : BitVec 4) : Byte := 0x7#4 ++ chan

/-- Groups 0x8 to 0xB. -/
def secondary8BByte (grp : BitVec 2) (chan : BitVec 4) : Byte := 0b10#2 ++ grp ++ chan

/-- Groups 0xC and 0xD. -/
def secondaryCDByte (grp : BitVec 1) (chan : BitVec 4) : Byte := 0b110#3 ++ grp ++ chan

/-- The encoder: the bytes of a command, first byte first. -/
def encode : Instr → List Byte
  | .nullPrimary => [0x00]
  | .unlisten => [0x3F]
  | .untalk => [0x5F]
  | .listen addr => [listenByte addr]
  | .talk addr => [talkByte addr]
  | .reservedPrimaryLow low => [reservedLowByte low]
  | .reservedPrimary60 low => [reserved60Byte low]
  | .reservedPrimary80 low => [reserved80Byte low]
  | .close15Ignored => [0xEF]
  | .dataCh chan => [dataByte chan]
  | .closeCh chan => [closeByte chan]
  | .openCh chan => [openByte chan]
  | .reservedSecondary03 grp chan => [secondary03Byte grp chan]
  | .reservedSecondary45 grp chan => [secondary45Byte grp chan]
  | .reservedSecondary7 chan => [secondary7Byte chan]
  | .reservedSecondary8B grp chan => [secondary8BByte grp chan]
  | .reservedSecondaryCD grp chan => [secondaryCDByte grp chan]
  | .xq => [0x58, 0x51]
  | .xz => [0x58, 0x5A]
  | .xfPlus => [0x58, 0x46, 0x2B]
  | .xfMinus => [0x58, 0x46, 0x2D]
  | .memWrite addr len payload => [0x4D, 0x2D, 0x57, loByte addr, hiByte addr, len] ++ payload
  | .memExecute addr => [0x4D, 0x2D, 0x45, loByte addr, hiByte addr]
  | .epyxLoadV1 => [0x26]
  | .epyxLoadV2 => [0x86]
  | .epyxLoadV3 => [0xAA]
  | .epyxSector0B => [0x0B]
  | .epyxSectorB8 => [0xB8]
  | .epyxSectorBA => [0xBA]
  | .epyxUnknownSum sum => [sum]
  | .epyxHdr len => [len]

/-! Reading a word of spec/opcode_table.json. The table's formats share their byte values, and a table word does not
say its format; `tableFormat` reads a word as the row with the most mask bits that it matches, the earlier row where
two have as many (assumption log 4). -/

/-- The format a one-byte table word is read in (assumption log 4). -/
def tableFormat8 (b : Byte) : Format :=
  if b = 0x00 ∨ b = 0x3F ∨ b = 0x5F then .pri
  else if b = 0xEF then .sec
  else if knownSums.contains b then .epyxSum
  else if b &&& 0xF0 = 0x60 ∨ b &&& 0xF0 = 0xE0 ∨ b &&& 0xF0 = 0xF0 ∨ b &&& 0xF0 = 0x70 then .sec
  else if b &&& 0xC0 = 0x00 ∨ b &&& 0xE0 = 0x40 then .pri
  else .sec

/-- The format a table word of `nbits` bits is read in: only channel-15 commands are longer than a byte. -/
def tableFormat (nbits w : Nat) : Format :=
  if nbits ≤ 8 then tableFormat8 (BitVec.ofNat 8 w) else .cmd15

/-- The `n` bytes of a table word, the most significant first: the table writes a command string's first byte in the
highest bits (`XQ` is 0x5851). -/
def wordBytesHigh : Nat → Nat → List Byte
  | 0, _ => []
  | n + 1, w => BitVec.ofNat 8 (w / 256 ^ n) :: wordBytesHigh n w

/-- The `n` bytes of a table word, the least significant first. -/
def wordBytesLow : Nat → Nat → List Byte
  | 0, _ => []
  | n + 1, w => BitVec.ofNat 8 w :: wordBytesLow n (w / 256)

/-- The longest payload a captured command holds with the default `CMD15_MAX` = 64: 64 - 6 bytes. -/
def longestPayload : Nat := 58

/-- The bytes of a table word as they arrive: in the table's order where that is a command, else the other way round,
with zeros after them up to the longest command. -/
def tableBytes (nbits w : Nat) : List Byte :=
  let n := (nbits + 7) / 8
  let tail := if n ≤ 1 then [] else List.replicate (longestPayload + 6 - n) 0
  match decode (tableFormat nbits w) (wordBytesHigh n w) with
  | .ok _ => wordBytesHigh n w ++ tail
  | .error _ => wordBytesLow n w ++ tail

/-- The command the decoder reads from a table word. -/
def decodeTableWord (nbits w : Nat) : Option Instr :=
  match decode (tableFormat nbits w) (tableBytes nbits w) with
  | .ok i => some i
  | .error _ => none

end Sys2Proof
end

