-- ==== Sys2Proof/Config.lean ====
section
/-! DEFINITION. What an implementation fixes (00_scope R4), the interfaces to the agents of 00_scope R6, and the
free values.

`Cfg` holds every parameter of R4 as plain data, with the source's value as its default (R3). A machine state carries
one `Cfg`, so every statement about all states is a statement about all configurations. The `opaque` constants have no
value in Lean: they stand for the OPEN parameters in the reset state and for what the environment does when a state
lists no further input. -/

namespace Sys2Proof

/-- The named lines of the `Pins` capability (20_memory R205). -/
inductive Line where
  | atn
  | clk
  | data
  | reset
  | ctrl
  | par (k : Fin 8)
  | ht
  | hr
  deriving DecidableEq, Repr, Inhabited

/-- Four slots of a fast-load frame, in time order. -/
structure Slots (α : Type) where
  s0 : α
  s1 : α
  s2 : α
  s3 : α
  deriving DecidableEq, Repr, Inhabited

/-- Where one received bit is read: a line, and whether its level is inverted (42_jiffydos R604). -/
structure BitSource where
  line : Line
  inverted : Bool
  deriving DecidableEq, Repr, Inhabited

/-- One slot of `JIFFY_RX_MAP`: the sources of the first and the second bit of the pair (42_jiffydos R604). -/
structure PairSource where
  first : BitSource
  second : BitSource
  deriving DecidableEq, Repr, Inhabited

/-- One slot of `JIFFY_TX_MAP`: which pair of the receive order (4,5), (6,7), (3,1), (2,0) the slot carries (00_scope R4,
20_memory R210), which bit of that pair goes to CLK, and the inversion of each line (42_jiffydos R606). -/
structure PairWiring where
  pair : Fin 4
  swap : Bool
  clkInverted : Bool
  dataInverted : Bool
  deriving DecidableEq, Repr, Inhabited

/-- One slot of `JIFFY_BLK_MAP`: the bit that goes to CLK and the bit that goes to DATA, and the inversion of each
(42_jiffydos R609: both the pair order and the line map are the parameter). -/
structure PairDrive where
  clkBit : Fin 8
  clkInverted : Bool
  dataBit : Fin 8
  dataInverted : Bool
  deriving DecidableEq, Repr, Inhabited

/-- One entry of `JIFFY_TX_STATUS_ENC`: CLK level, DATA level, hold in µs (42_jiffydos R607). -/
structure StatusCode where
  clk : Level
  data : Level
  hold : Nat
  deriving DecidableEq, Repr, Inhabited

/-- `JIFFY_LOOKUP` (42_jiffydos R602). -/
inductive JiffyLookup where
  | lowNibble
  | fullAddress
  deriving DecidableEq, Repr, Inhabited

/-- `DOLPHIN_DIR_OK` (43_dolphindos R711): the default test `¬atn_active ∧ par_dir = IN`, or a fixed answer for each
direction. -/
inductive DirTest where
  | released
  | fixed (tx rx : Bool)
  deriving DecidableEq, Repr, Inhabited

/-- `DOLPHIN_BURST` (00_scope R4, 92_eei D31): the polarities of the burst framing. The defaults are the skeleton of
43_dolphindos R712 and R713. -/
structure BurstFraming where
  /-- the CLK level that says "burst in progress" in a burst transmit; the other level ends the burst -/
  busy : Level := .low
  /-- the CLK level at which a received byte is the last one -/
  eoi : Level := .high
  /-- the level whose arrival on HR is the host's handshake -/
  hrEdge : Level := .low
  /-- whether the bits on the parallel bus are inverted -/
  inverted : Bool := false
  deriving DecidableEq, Repr, Inhabited

/-- What identifies an Epyx memory write: destination address, length, payload sum (44_epyx R802). -/
structure WriteMark where
  addr : BitVec 16
  len : Byte
  sum : Byte
  deriving DecidableEq, Repr, Inhabited

/-- One record of `EPYX_SIGNATURES` (44_epyx R802). -/
structure Signature where
  first : WriteMark
  second : WriteMark
  exec : BitVec 16
  deriving DecidableEq, Repr, Inhabited

/-- The Epyx versions (10_state R156). -/
inductive EpyxVer where
  | v1
  | v2
  | v3
  deriving DecidableEq, Repr, Inhabited

/-- What a sector command asks for (44_epyx R814). -/
inductive SectorOp where
  | read
  | write
  | finish
  deriving DecidableEq, Repr, Inhabited

/-- One exception to a sector format's usual answer: a track, a sector, a command byte, and their operation. -/
structure SectorRow where
  track : Byte
  sector : Byte
  command : Byte
  op : SectorOp
  deriving DecidableEq, Repr, Inhabited

/-- `EPYX_SECTOR_CMD` for one sector sum (44_epyx R814): whether a command byte is present, and the decode of
(track, sector, command) as a finite table, first match first, with the answer for every other triple. Every function
on three bytes is such a table. -/
structure SectorFormat where
  hasCommand : Bool
  rows : List SectorRow
  otherwise : SectorOp
  deriving DecidableEq, Repr, Inhabited

/-- The configuration parameters (00_scope R4). Durations are in µs, except the fields whose name ends in `Half`,
which are in half microseconds, so that 16.5 and 27.5 are exact. -/
structure Cfg where
  /-- `FEAT_JIFFY` -/
  featJiffy : Bool
  /-- `FEAT_DOLPHIN` -/
  featDolphin : Bool
  /-- `FEAT_EPYX` -/
  featEpyx : Bool
  /-- `SUPPORT_SECTOROPS` -/
  sectorOps : Bool
  /-- `HAS_ATN_IRQ` -/
  hasAtnIrq : Bool
  /-- `HAS_RESET_PIN` -/
  hasResetPin : Bool
  /-- `HAS_CTRL_PIN` -/
  hasCtrlPin : Bool
  /-- `HAS_PARALLEL` -/
  hasParallel : Bool
  /-- `MAX_DEVICES` (OPEN, D60) -/
  maxDevices : Nat
  /-- `MAX_ENGINES` -/
  maxEngines : Nat := 2
  /-- `BUF_SIZE` -/
  bufSize : Nat := 128
  /-- `EPYX_BLOCK_MAX` -/
  epyxBlockMax : Nat := min bufSize 255
  /-- `DOLPHIN_PREBUFFER_BYTES` -/
  prebufferBytes : Nat := 2
  /-- `CMD15_MAX` -/
  cmd15Max : Nat := 64
  /-- `HEARTBEAT_MAX` -/
  heartbeatMax : Nat := 30000
  /-- `T_ATN_RESPONSE` (an obligation, 41_iec_core R511; no step reads it) -/
  tAtnResponse : Nat := 1000
  /-- `T_ATN_ABANDON` (an obligation, 70_reset R1110; no step reads it) -/
  tAtnAbandon : Nat := 20
  /-- `T_TICK_MAX` (an obligation on the main loop, 45_scheduler R916; no step reads it) -/
  tTickMax : Nat := 1000
  /-- `T_TOL` -/
  tTol : Nat := 1
  /-- `T_IEC_EOI_WAIT` -/
  tIecEoiWait : Nat := 200
  /-- `T_IEC_EOI_PULSE` -/
  tIecEoiPulse : Nat := 80
  /-- `T_JIFFY_DETECT` -/
  tJiffyDetect : Nat := 200
  /-- `T_JIFFY_DETECT_PULSE` -/
  tJiffyDetectPulse : Nat := 80
  /-- `T_IEC_TX_EOI_LOW` -/
  tIecTxEoiLow : Nat := 1000
  /-- `T_IEC_BIT_LOW` -/
  tIecBitLow : Nat := 80
  /-- `T_IEC_BIT_HIGH` -/
  tIecBitHigh : Nat := 60
  /-- `T_IEC_TALK_GAP` -/
  tIecTalkGap : Nat := 200
  /-- `T_IEC_ACK` -/
  tIecAck : Nat := 1000
  /-- `JIFFY_RX_T` -/
  jiffyRxT : Slots Nat := ⟨14, 27, 38, 51⟩
  /-- `JIFFY_RX_EOI_T` -/
  jiffyRxEoiT : Nat := 64
  /-- `JIFFY_RX_ACK_T` -/
  jiffyRxAckT : Nat := 83
  /-- `JIFFY_TX_T`[0..3] in half microseconds: 0, 16.5, 27.5, 39 µs -/
  jiffyTxHalf : Slots Nat := ⟨0, 33, 55, 78⟩
  /-- `JIFFY_TX_T`[4] in half microseconds: 50 µs -/
  jiffyTxEndHalf : Nat := 100
  /-- `JIFFY_BLK_T`[0..3] -/
  jiffyBlkT : Slots Nat := ⟨6, 17, 27, 39⟩
  /-- `JIFFY_BLK_T`[4] -/
  jiffyBlkEndT : Nat := 50
  /-- `T_JIFFY_BLK_EOI_PULSE` -/
  tJiffyBlkEoiPulse : Nat := 100
  /-- `T_DOL_EOI_WAIT` -/
  tDolEoiWait : Nat := 100
  /-- `T_DOL_EOI_PULSE` -/
  tDolEoiPulse : Nat := 60
  /-- `T_DOL_ACK` -/
  tDolAck : Nat := 1000
  /-- `T_DOL_TX_EOI_LOW` -/
  tDolTxEoiLow : Nat := 1000
  /-- `T_DOL_BURST_TX_DELAY` -/
  tDolBurstTxDelay : Nat := 200
  /-- `T_DOL_BURST_RX_DELAY` -/
  tDolBurstRxDelay : Nat := 500
  /-- `T_DOL_HT_PULSE` (OPEN, D57) -/
  tDolHtPulse : Nat
  /-- `T_DOL_BURST_ACK` (OPEN, D57; 0 is no timeout) -/
  tDolBurstAck : Nat
  /-- `EPYX_TX_T`[0..3] -/
  epyxTxT : Slots Nat := ⟨0, 17, 27, 37⟩
  /-- `EPYX_TX_T`[4] -/
  epyxTxEndT : Nat := 47
  /-- `EPYX_TX_REL_T` -/
  epyxTxRelT : Nat := 49
  /-- `T_HEARTBEAT_PERIOD` -/
  tHeartbeatPeriod : Nat := 16
  /-- `JIFFY_LOOKUP` -/
  jiffyLookup : JiffyLookup := .lowNibble
  /-- `JIFFY_RX_MAP` (OPEN, D52) -/
  jiffyRxMap : Slots PairSource
  /-- `JIFFY_TX_MAP` (OPEN, D52) -/
  jiffyTxMap : Slots PairWiring
  /-- `JIFFY_BLK_MAP` (OPEN, D52) -/
  jiffyBlkMap : Slots PairDrive
  /-- `JIFFY_TX_STATUS_ENC`(`MORE`) (OPEN, D51) -/
  jiffyMore : StatusCode
  /-- `JIFFY_TX_STATUS_ENC`(`LAST`) (OPEN, D51) -/
  jiffyLast : StatusCode
  /-- `JIFFY_TX_STATUS_ENC`(`ERROR`) (OPEN, D51) -/
  jiffyError : StatusCode
  /-- `DOLPHIN_DIR_OK` -/
  dolphinDirOk : DirTest := .released
  /-- `DOLPHIN_BURST` -/
  dolphinBurst : BurstFraming := {}
  /-- `EPYX_SIGNATURES`[V1] (OPEN, D56) -/
  epyxSig1 : Signature
  /-- `EPYX_SIGNATURES`[V2] (OPEN but for `exec` = 0x01A9, D56) -/
  epyxSig2 : Signature
  /-- `EPYX_SIGNATURES`[V3] (OPEN, D56) -/
  epyxSig3 : Signature
  /-- `EPYX_RX_ORDER` (OPEN, D53): the bit position of the i-th sample, a permutation of 0 to 7 -/
  epyxRxOrder : List Nat
  /-- `EPYX_TX_LINE_MAP` (OPEN, D53): the (CLK, DATA) levels for the inverted bits (0,0), (0,1), (1,0), (1,1) -/
  epyxTxLineMap : Slots (Level × Level)
  /-- `EPYX_SECTOR_CMD`(0x0B) (OPEN, D36) -/
  sector0B : SectorFormat
  /-- `EPYX_SECTOR_CMD`(0xB8) (OPEN, D36) -/
  sectorB8 : SectorFormat
  /-- `EPYX_SECTOR_CMD`(0xBA) (OPEN, D36) -/
  sectorBA : SectorFormat
  deriving DecidableEq, Repr, Inhabited

/-- A `Device` capability (20_memory R212): which device it is, and which of the two optional sector calls it offers. -/
structure Handle where
  id : Nat
  readsSectors : Bool
  writesSectors : Bool
  deriving DecidableEq, Repr, Inhabited

/-- The calls on the `Device` capability (20_memory R212). `k` is a device-table index; `address` is asked of a
capability that is not in the table yet. `writeBytes` is in the contract and no rule of the spec makes it. -/
inductive DevCall where
  | address (h : Handle)
  | begin (k : Nat)
  | reset (k : Nat)
  | task (k : Nat)
  | listen (k : Nat) (sec : Byte)
  | unlisten (k : Nat)
  | talk (k : Nat) (sec : Byte)
  | untalk (k : Nat)
  | primaryAddress (k : Nat) (b : Byte)
  | secondaryAddress (k : Nat) (b : Byte)
  | canWrite (k : Nat)
  | canRead (k : Nat)
  | write (k : Nat) (b : Byte) (eoi : Bool)
  | writeBytes (k : Nat) (bs : List Byte) (eoi : Bool)
  | read (k : Nat)
  | readInto (k : Nat) (cap : Nat)
  | peek (k : Nat)
  | readSector (k : Nat) (track sector : Byte)
  | writeSector (k : Nat) (track sector : Byte) (bytes : List Byte)
  deriving DecidableEq, Repr, Inhabited

/-- The draws that come with one move of the engine: a device's answer (20_memory R212) and the place of a timed
instant inside its tolerance band (40_timing R412). A call reads only the part its result type has. A threshold that is
tested between two moves reads `jitter` of the last device call. -/
structure Answer where
  /-- the `i8` of `can_write()` and `can_read()` -/
  count : BitVec 8 := 0
  /-- the byte of `read()` and `peek()` -/
  byte : Byte := 0
  /-- the bytes of `read(dst, cap)` and of `epyx_read_sector`; their number is the count returned -/
  bytes : List Byte := []
  /-- the `n` of `write(bytes, eoi)`, the number of bytes taken -/
  taken : Nat := 0
  /-- the `u5` of `address()` -/
  addr : BitVec 5 := 0
  /-- which instant of the tolerance band the engine's clock took -/
  jitter : Nat := 0
  deriving DecidableEq, Repr, Inhabited

/-- The line drives of the agents outside the engine: `Host`, `OtherDevices` and the RESET environment
(40_timing R404). `true` is driven low; bit k of `par` is PARk. -/
structure Drives where
  hostAtn : Bool := false
  hostClk : Bool := false
  hostData : Bool := false
  othersClk : Bool := false
  othersData : Bool := false
  par : BitVec 8 := 0
  hostHt : Bool := false
  hostHr : Bool := false
  reset : Bool := false
  deriving DecidableEq, Repr, Inhabited

/-- What the main loop asks of the block: construction (70_reset R1100), `add_device` (41_iec_core R500),
`begin()` (70_reset R1101) and `tick()` (45_scheduler R900). -/
inductive HostCall where
  | construct (cfg : Cfg) (pin : Nat)
  | addDevice (h : Handle) (flags : BitVec 12)
  | begin
  | tick
  deriving DecidableEq, Repr, Inhabited

/-- One step of one agent at a yield point (00_scope R6, 10_state R106): an outside agent drives its lines, the clock
advances, the interrupt of an ATN pin is delivered, the engine goes on, or the main loop makes a call. -/
inductive Move where
  | drive (d : Drives)
  | clock (dt : Micros)
  | interrupt (pin : Nat)
  | engine (a : Answer)
  | host (c : HostCall)
  deriving DecidableEq, Repr, Inhabited

/-- The move the environment makes when a state lists none: a free value, one for each count of such moves. -/
opaque Config.freeMove : Nat → Move

/-- A byte sent from `buf` that the device left unwritten (44_epyx R816): a free value, one for each such byte. -/
opaque Config.freeByte : Nat → Byte

/-- OPEN parameters of the machine in the reset state (93_implementation_defined §9). -/
opaque Config.extraDevices : Nat

opaque Config.htPulse : Nat

opaque Config.burstAck : Nat

opaque Config.jiffyRxMap : Slots PairSource

opaque Config.jiffyTxMap : Slots PairWiring

opaque Config.jiffyBlkMap : Slots PairDrive

opaque Config.jiffyStatus : Slots StatusCode

opaque Config.epyxSignatures : Slots Signature

opaque Config.epyxRxOrder : List Nat

opaque Config.epyxTxLineMap : Slots (Level × Level)

opaque Config.sectorFormats : Slots SectorFormat

end Sys2Proof
end

