-- ==== Sys2Proof/Machine/State.lean ====
section
/-! DEFINITION. The machine's state, the reasons a step can stop, and the state after reset.

The fields of one engine are grouped as the table of 10_state R100 groups them. Four fields are the MODEL's own: `cfg`
(the configuration, 00_scope R4), `env` (the agents outside the engine, R6), `work` (the working values R107 gives a
routine) and `life` (what the main loop has called so far, 70_reset R1103). -/

namespace Sys2Proof.Machine

/-- Bytes at indices, in canonical form: indices strictly rising. An unlisted index reads as no value, so that reading
a byte nothing has written faults (20_memory R203, 93_implementation_defined §2). -/
abbrev Memory := List Host.Cell

/-- The canonical form: indices strictly rising. -/
def Memory.wf : Memory → Bool
  | [] => true
  | [_] => true
  | c :: d :: m => decide (c.1 < d.1) && Memory.wf (d :: m)

/-- `mode` (10_state R101), in the order of its encoding: `IDLE` = 0, `UNDER_ATN` = 1, `LISTENING` = 2,
`TALKING` = 3. -/
inductive Mode where
  | idle
  | underAtn
  | listening
  | talking
  deriving DecidableEq, Repr

/-- The 2-bit encoding of `mode` (10_state R101). -/
def Mode.code : Mode → BitVec 2
  | .idle => 0
  | .underAtn => 1
  | .listening => 2
  | .talking => 3

/-- The six error kinds (60_exceptions R1000). -/
inductive ErrKind where
  | notAddressed
  | timeoutMissedEdge
  | atnPreempted
  | deviceRefused
  | verifyError
  | checksumMismatch
  deriving DecidableEq, Repr

/-- The codes of the error kinds (60_exceptions R1000). -/
def ErrKind.code : ErrKind → Nat
  | .notAddressed => 1
  | .timeoutMissedEdge => 2
  | .atnPreempted => 3
  | .deviceRefused => 4
  | .verifyError => 5
  | .checksumMismatch => 6

/-- What a wait returns (40_timing R408). -/
inductive WaitResult where
  | reached
  | timeout
  | atnAbort
  deriving DecidableEq, Repr

/-- The direction of a DolphinDOS burst, seen from the engine (43_dolphindos R708). -/
inductive BurstDir where
  | tx
  | rx
  deriving DecidableEq, Repr

/-- The JiffyDOS transmit status (42_jiffydos R607). -/
inductive TxStatus where
  | more
  | last
  | error
  deriving DecidableEq, Repr

/-! ## The sequencer position (10_state R105) -/

/-- Where the engine decodes a command and runs it: the byte `rx` under ATN as primary or as secondary
(41_iec_core R520), the captured primary and secondary at the ATN rise (R512), the captured channel-15 string of
device `k` (R525), the routine sum (44_epyx R808) and the filename length (R809). -/
inductive Site where
  | primary (rx : Byte)
  | secondary (rx : Byte)
  | rise
  | cmd15 (k : Nat)
  | sum (k : Nat) (sum : Byte)
  | header (k : Nat) (len : Byte)
  deriving DecidableEq, Repr

/-- The yield points (10_state R106). A `strict` wait is the `?` of 00_scope R9: a result other than `REACHED` fails.
A wait that is not strict leaves its result in `work.wait`. -/
inductive Yield where
  /-- `BETWEEN_TICKS` -/
  | between
  /-- a device call in progress -/
  | call (c : DevCall)
  /-- `wait_for` (40_timing R408), begun at `start` -/
  | waitFor (l : Line) (lvl : Level) (t : Nat) (start : Micros) (strict : Bool)
  /-- `wait_us` (R410), begun at `start` -/
  | waitUs (t : Nat) (start : Micros) (strict : Bool)
  /-- `wait_until(t0 + d)` (R413), `d` in half microseconds -/
  | waitUntil (half : Nat) (t0 : Micros)
  /-- `wait_hr_fall` (R418), begun at `start`, HR last seen at `prev`; the awaited edge is the arrival at `edge`, which is
  `LOW` but for another `DOLPHIN_BURST` -/
  | waitHr (edge : Level) (t : Nat) (start : Micros) (prev : Level) (strict : Bool)
  deriving DecidableEq, Repr

/-- Statements of construction and `begin()` (41_iec_core R500, 70_reset R1101). -/
inductive BootPos where
  | added (h : Handle) (flags : BitVec 12)
  | attach
  deriving DecidableEq, Repr

/-- The steps of `tick()` (45_scheduler R900) and the statements of its listen and talk steps (R906, R909). -/
inductive TickPos where
  | s1
  | s2
  | s3
  | s4
  | s5
  | s6
  | s7
  | s8
  | finish
  | posted
  | canWrite
  | listen (w : BitVec 8)
  | canRead (k : Nat)
  | talk (k : Nat) (n : BitVec 8)
  | transmit (k n : Nat)
  deriving DecidableEq, Repr

/-- Statements of the role actions (41_iec_core R513 to R516, R519). -/
inductive RolePos where
  | listenFlushed (k : Nat) (sec : Byte)
  | listenFree (k : Nat) (sec : Byte)
  | listenDone
  | talkFlushed (k : Nat) (sec : Byte)
  | talkFree (k : Nat) (sec : Byte)
  | talkCalled
  | reverse
  | unlisten (k : Nat)
  | unlistenDone
  | untalkDone
  deriving DecidableEq, Repr

/-- Statements of the standard receive (41_iec_core R530), the JiffyDOS detection in it (42_jiffydos R603) and the
DolphinDOS probe after it (43_dolphindos R702). -/
inductive RxPos where
  | clkFall
  | eoiTest
  | eoiPulsed
  | bit (i : Nat) (rx : Byte) (eoi : Bool)
  | window (rx : Byte) (eoi : Bool)
  | detected (j : Nat) (rx : Byte) (eoi : Bool)
  | sample (i : Nat) (rx : Byte) (eoi : Bool)
  | byte (rx : Byte) (eoi : Bool)
  | ack (rx : Byte) (eoi : Bool) (newSec : Bool)
  | probe (k : Nat)
  deriving DecidableEq, Repr

/-- Statements of the standard transmit (41_iec_core R540) and of `commit_tx` (R548). -/
inductive TxPos where
  | ready (k n : Nat) (verify : Bool)
  | high (k n : Nat)
  | send (k n : Nat)
  | peeked (k : Nat)
  | lowHeld (k : Nat) (b : Byte) (i : Nat)
  | highHeld (k : Nat) (b : Byte) (i : Nat)
  | acked (k : Nat)
  | committed
  deriving DecidableEq, Repr

/-- Statements of the JiffyDOS engine (42_jiffydos R604, R606, R609, R610, R612). -/
inductive JiffyPos where
  | rxEdge (k : Nat)
  | rxPair (k : Nat) (t0 : Micros) (s : Nat) (rx : Byte)
  | rxEoi (k : Nat) (t0 : Micros) (rx : Byte)
  | rxDone (k : Nat) (rx : Byte) (eoi : Bool)
  | txPeeked (k : Nat) (st : TxStatus)
  | txEdge (k : Nat) (st : TxStatus) (b : Byte)
  | txPair (k : Nat) (st : TxStatus) (b : Byte) (t0 : Micros) (s : Nat)
  | txStatus (k : Nat) (st : TxStatus)
  | txHeld (k : Nat) (st : TxStatus)
  | txAcked (k : Nat) (st : TxStatus)
  | claimed (k n : Nat)
  | filled
  | blockHigh (m j : Nat)
  | blockEdge (m j : Nat)
  | blockPair (m j : Nat) (t0 : Micros) (s : Nat)
  | blockEnd (m j : Nat)
  | eoiHeld
  deriving DecidableEq, Repr

/-- Statements of the DolphinDOS engine (43_dolphindos R703, R706, R712, R713) and its return check (60_exceptions
R1021, `ParDirLeak`). -/
inductive DolPos where
  | rxEdge (k : Nat)
  | rxPulsed (k : Nat)
  | rxData (k : Nat) (eoi : Bool)
  | txEmpty
  | txPeeked (k n : Nat)
  | txReady (k n : Nat) (b : Byte)
  | txHigh (k : Nat) (b : Byte)
  | txValid (k : Nat) (b : Byte)
  | txRead (b : Byte)
  | txAcked
  | sendPulsed
  | sendTaken
  | burstTalk (k : Nat)
  | burstHeld (k i : Nat)
  | burstAsk (k : Nat)
  | burstCount (k : Nat)
  | burstByte (k : Nat)
  | burstEnd
  | burstListen (k : Nat)
  | burstTake (k : Nat)
  | burstTaken (k : Nat) (b : Byte) (eoi : Bool)
  | burstNext (k : Nat) (eoi : Bool)
  | releaseClk
  | returned
  deriving DecidableEq, Repr

/-- Statements of the Epyx engine (44_epyx R805 to R817). -/
inductive EpyxPos where
  | headerReady (k : Nat)
  | headerByte (k i : Nat) (sum : Byte)
  | rxBit (i : Nat) (v : Byte) (lvl : Level)
  | txEdge (v : Byte)
  | txPair (v : Byte) (t0 : Micros) (s : Nat)
  | txClk (t0 : Micros)
  | txData
  | txTaken
  | nameLen (k : Nat)
  | nameClaimed (k : Nat) (len : Byte)
  | nameByte (k : Nat) (len : Byte) (i : Nat)
  | opened (k : Nat)
  | loadClaimed (k : Nat)
  | loadRead (k : Nat)
  | loadByte (k n i : Nat)
  | guarded (k : Nat)
  | abort (k : Nat) (kind : ErrKind)
  | closed
  | beat (k i : Nat)
  | beatLow (k i : Nat)
  | sectorTrack (k : Nat)
  | sectorSector (k : Nat) (t : Byte)
  | sectorCommand (k : Nat) (t s : Byte)
  | readClaimed (k : Nat) (t s : Byte)
  | readFilled (k : Nat)
  | readSend (k i : Nat)
  | writeClaimed (k : Nat) (t s : Byte)
  | writeByte (k : Nat) (t s : Byte) (i : Nat)
  deriving DecidableEq, Repr

/-- A statement label (10_state R105): a decode point, a yield point, or a statement of a routine, with the working
values that R107 gives the routine. -/
inductive Pos where
  | decode (site : Site)
  | yield (y : Yield)
  | boot (p : BootPos)
  | tick (p : TickPos)
  | role (p : RolePos)
  | rx (p : RxPos)
  | tx (p : TxPos)
  | jiffy (p : JiffyPos)
  | dol (p : DolPos)
  | epyx (p : EpyxPos)
  /-- the end of `pulse_low` (40_timing R411) -/
  | pulseEnd (l : Line) (strict : Bool)
  /-- a failure that goes on to the caller (60_exceptions R1001) -/
  | raise (kind : ErrKind)
  deriving DecidableEq, Repr

/-! ## The groups of 10_state R100 -/

/-- The bus state machine (10_state R101, R102). -/
structure Bus where
  mode : Mode
  done : Bool
  deriving DecidableEq, Repr

/-- The flags (10_state R110 to R114). -/
structure FlagRegs where
  atnActive : Bool
  resetSeenPrev : Bool
  inTick : Bool
  irqMasked : Bool
  irqPending : Bool
  deriving DecidableEq, Repr

/-- The addressing registers (10_state R115 to R117). -/
structure AddrRegs where
  primary : Byte
  secondary : Byte
  secValid : Bool
  deriving DecidableEq, Repr

/-- The selection registers (10_state R120, R121). -/
structure SelRegs where
  current : Option Nat
  listener : Option Nat
  listenerSec : Byte
  talker : Option Nat
  talkerSec : Byte
  deriving DecidableEq, Repr

/-- One device-table entry (10_state R130). `configured` is the configured value of the persistent flag bits, which a
RESET restores (R132). -/
structure Entry where
  valid : Bool
  address : BitVec 5
  flags : BitVec 12
  handle : Handle
  configured : BitVec 12
  deriving DecidableEq, Repr

/-- The line drivers (10_state R140). `parOutMode` is `par_dir`: true is `OUT`. -/
structure Drivers where
  clk : Bool
  data : Bool
  ctrlOn : Bool
  parOutMode : Bool
  parOut : Byte
  ht : Bool
  deriving DecidableEq, Repr

/-- Talk timing (10_state R146). -/
structure TalkRegs where
  txFirst : Bool
  lastTxTime : Micros
  deriving DecidableEq, Repr

/-- DolphinDOS state (10_state R150). -/
structure DolRegs where
  preArm : Bool
  preN : Nat
  preDev : Nat
  preEoi : Bool
  capN : Nat
  reqTime : Micros
  deriving DecidableEq, Repr

/-- Command capture (10_state R155). -/
structure CmdRegs where
  buf : Memory
  len : Nat
  overflow : Bool
  deriving DecidableEq, Repr

/-- Epyx state (10_state R156). -/
structure EpyxRegs where
  ctr : Fin 3
  ver : Option EpyxVer
  dev : Nat
  sum : Byte
  deriving DecidableEq, Repr

/-- One bound slot of the process-wide registry (10_state R160): the engine and its ATN pin. -/
structure RegistrySlot where
  engine : Nat
  atnPin : Nat
  deriving DecidableEq, Repr

/-- The agents outside the engine (00_scope R6), the model's own: what they drive now, the clock, the moves to come
(oldest first), how many moves were free, whether the ISR is attached (70_reset R1101), and whether the platform holds
an ATN falling edge it has not delivered yet (60_exceptions R1013). -/
structure Env where
  drives : Drives
  micros : Micros
  feed : List Move
  draws : Nat
  attached : Bool
  edge : Bool
  deriving DecidableEq, Repr

/-- The working values a routine passes to its next statement (10_state R107), the model's own: the answer of the last
device call, the result of the last wait that was not strict, and the byte the last receive routine returned. -/
structure Work where
  answer : Answer
  wait : WaitResult
  byte : Byte
  deriving DecidableEq, Repr

/-- What the main loop has called (70_reset R1103), the model's own. -/
inductive Life where
  | unbuilt
  | constructed
  | begun
  deriving DecidableEq, Repr

/-- The machine. `dev` lists the device table's entries in index order; an index past its end is an entry that is not
valid (10_state R130). `seq` is the sequencer position: the next statement first, then the statements to return to.
`engine` is the number by which the registry's slots name this engine (R160). -/
structure State where
  bus : Bus
  seq : List Pos
  fl : FlagRegs
  addr : AddrRegs
  sel : SelRegs
  dev : List Entry
  drv : Drivers
  buf : Memory
  talk : TalkRegs
  dol : DolRegs
  cmd : CmdRegs
  epyx : EpyxRegs
  registry : List RegistrySlot
  engine : Nat
  cfg : Cfg
  env : Env
  work : Work
  life : Life
  deriving DecidableEq, Repr

/-! ## The reasons a step can stop -/

/-- The model faults of 60_exceptions R1021: errors of a model or of a device, not behaviour of the hardware. -/
inductive Fault where
  /-- `MaskNested`: `mask_irq()` while interrupts are masked (40_timing R416). Raised by `maskIrq`. Safe: the spec
  demands the stop. -/
  | maskNested
  /-- `BufIndex`: a `buf` or `cmd_buf` index out of range (20_memory R203, R204). Raised by the buffer accesses. Safe:
  the spec demands the stop. -/
  | bufIndex
  /-- `Unwritten`: a read of a buffer byte that nothing has written (20_memory R203, 10_state R170). Raised by the
  buffer reads. Safe: the spec demands the stop. -/
  | unwritten
  /-- `DeviceContract`: a device result outside its contract (20_memory R212). Raised where `read(dst, cap)` returned
  more than `cap` bytes. Safe: the spec demands the stop. -/
  | deviceContract
  /-- `VerifyFail`: a `fail` of a kind that no rule fails with, `VerifyError` (60_exceptions R1006) or `NotAddressed`
  (R1000). Raised by `failWith`. Safe: the spec demands the stop. -/
  | verifyFail
  /-- `ParDirLeak`: a return of a DolphinDOS routine with `par_dir = OUT` (43_dolphindos R714). Raised by the return
  check of those routines. Safe: the spec demands the stop. -/
  | parDirLeak
  /-- `MaskLeak`: a return from `tick()` with interrupts masked (10_state R113). Raised at the end of the tick. Safe:
  the spec demands the stop. -/
  | maskLeak
  /-- A rule names `current_device` as an operand and no device is selected: 10_state R103 item 4 rules the state out.
  Raised by the listen and talk steps and the delivery. Safe: no run reaches it. -/
  | noDevice
  deriving DecidableEq, Repr

/-- The calls the spec tells a model to refuse (93_implementation_defined §6), and the refusals of this model. -/
inductive Refusal where
  /-- An instruction that has no meaning yet. Raised by no arm of `exec`. Safe. -/
  | notModelled (mnemonic : String)
  /-- Construction of a third engine (60_exceptions R1018). Raised by `construct`. Safe: the spec demands it. -/
  | thirdEngine
  /-- Construction with a configuration below the buffer minimums (70_reset R1100). Raised by `construct`. Safe: the
  spec demands it. -/
  | badConfig
  /-- A second `begin()` (70_reset R1101). Safe: the spec demands it. -/
  | secondBegin
  /-- `tick()` before `begin()` (70_reset R1103). Safe: the spec demands it. -/
  | tickBeforeBegin
  /-- `add_device` after `begin()` (70_reset R1112). Safe: the spec demands it. -/
  | addAfterBegin
  /-- `tick()` from inside `tick()` (70_reset R1113). Safe: the spec demands it. -/
  | tickInTick
  /-- `begin()` or `add_device` before the engine is constructed, or while one of them is still running: no rule
  gives the call a meaning. Safe. -/
  | notConstructed
  /-- A drive of ATN, RESET or HR (40_timing R400). Raised by `driveLine`. Safe: the spec demands it. -/
  | inputLine
  /-- A channel-15 or Epyx command is run where the sequencer is not at that command's decode point, so that the
  device operand `k` of its rule does not exist. Raised by the meanings of those commands. Safe: no step does it. -/
  | notAtDecodePoint
  deriving DecidableEq, Repr

/-! ## Reset -/

/-- The configuration of the machine in the reset state: every feature (`IEC-P+J+D+E+S`, 00_scope R1) and every
optional pin, `BUF_SIZE` at the minimum that configuration needs, every other parameter at its default, and the OPEN
parameters at the unknown constants of Config (assumption log 3). -/
def resetCfg : Cfg where
  featJiffy := true
  featDolphin := true
  featEpyx := true
  sectorOps := true
  hasAtnIrq := true
  hasResetPin := true
  hasCtrlPin := true
  hasParallel := true
  maxDevices := Config.extraDevices + 1
  bufSize := 256
  tDolHtPulse := Config.htPulse
  tDolBurstAck := Config.burstAck
  jiffyRxMap := Config.jiffyRxMap
  jiffyTxMap := Config.jiffyTxMap
  jiffyBlkMap := Config.jiffyBlkMap
  jiffyMore := Config.jiffyStatus.s0
  jiffyLast := Config.jiffyStatus.s1
  jiffyError := Config.jiffyStatus.s2
  epyxSig1 := Config.epyxSignatures.s0
  epyxSig2 := { Config.epyxSignatures.s1 with exec := 0x01A9 }
  epyxSig3 := Config.epyxSignatures.s2
  epyxRxOrder := Config.epyxRxOrder
  epyxTxLineMap := Config.epyxTxLineMap
  sector0B := Config.sectorFormats.s0
  sectorB8 := Config.sectorFormats.s1
  sectorBA := Config.sectorFormats.s2

/-- A configuration's engine with an empty table, every field at its value after construction: the `C` column of
10_state R170. The fields the spec leaves unspecified hold the values of assumption log 1. -/
def State.constructed (cfg : Cfg) (engine : Nat) (registry : List RegistrySlot) (env : Env) : State where
  bus := ⟨.idle, false⟩
  seq := [.yield .between]
  fl := ⟨false, false, false, false, false⟩
  addr := ⟨0, 0, false⟩
  sel := ⟨none, none, 0, none, 0⟩
  dev := []
  drv := ⟨false, false, false, false, 0xFF, false⟩
  buf := []
  talk := ⟨true, 0⟩
  dol := ⟨false, 0, 0, false, 0, 0⟩
  cmd := ⟨[], 0, false⟩
  epyx := ⟨0, none, 0, 0⟩
  registry := registry
  engine := engine
  cfg := cfg
  env := env
  work := ⟨⟨0, 0, [], 0, 0, 0⟩, .reached, 0⟩
  life := .constructed

/-- The outside at a start: nothing is driven, no move is listed, no ISR is attached, and `micros()` is 0, which is the
model's choice (60_exceptions R1016, assumption log 28). -/
def Env.quiet : Env := ⟨⟨false, false, false, false, false, 0, false, false, false⟩, 0, [], 0, false, false⟩

/-- The process at program start: every slot of the registry is empty (10_state R160), and no engine is constructed.
Construction sets every other field. -/
def State.programStart (cfg : Cfg) : State :=
  { State.constructed cfg 0 [] Env.quiet with life := .unbuilt }

/-- The machine after construction, one `add_device` and `begin()` (70_reset R1100, R1101): the state `S0` of
95_test_vectors §0. Its one device is device 8 with every `*Enabled` bit (assumption log 3); the outside agents drive
nothing and list no move. The spec leaves the value of `micros()` at reset open (60_exceptions R1016): the clock starts at
0 here, DESIGN CHOICE (assumption log 28). -/
def State.reset : State :=
  { State.constructed resetCfg 0 [⟨0, 0⟩] { Env.quiet with attached := true } with
    dev := [⟨true, 8, 0x129, ⟨0, true, true⟩, 0x129⟩]
    life := .begun }

end Sys2Proof.Machine
end

