-- ==== Sys2Proof/Machine/Flags.lean ====
section
/-! DEFINITION. The `proto_flags` of a device-table entry (10_state R131 to R133): positions, masks, and the one read
and the two writes through which every rule reaches them. -/

namespace Sys2Proof.Machine

/-- The twelve flags, in the order of their bit positions (10_state R131). -/
inductive ProtoFlag where
  | jiffyEnabled
  | jiffyDetected
  | jiffyBlock
  | dolphinEnabled
  | dolphinDetected
  | dolphinBurstEnabled
  | dolphinBurstTx
  | dolphinBurstRx
  | epyxEnabled
  | epyxHeader
  | epyxLoad
  | epyxSectorOp
  deriving DecidableEq, Repr

/-- The bit position of a flag (10_state R131). -/
def ProtoFlag.bit : ProtoFlag → Nat
  | .jiffyEnabled => 0
  | .jiffyDetected => 1
  | .jiffyBlock => 2
  | .dolphinEnabled => 3
  | .dolphinDetected => 4
  | .dolphinBurstEnabled => 5
  | .dolphinBurstTx => 6
  | .dolphinBurstRx => 7
  | .epyxEnabled => 8
  | .epyxHeader => 9
  | .epyxLoad => 10
  | .epyxSectorOp => 11

/-- The mask with the flag's bit alone. -/
def ProtoFlag.mask (f : ProtoFlag) : BitVec 12 := BitVec.twoPow 12 f.bit

/-- The transient bits: cleared at every ATN fall (10_state R131, R132). -/
def transientMask : BitVec 12 := 0xED6

/-- The persistent bits: written by configuration (10_state R131, R132). -/
def persistentMask : BitVec 12 := 0x129

/-- The bits that exist in a configuration; every other bit is hardwired 0 (10_state R131). -/
def wiredMask (c : Cfg) : BitVec 12 :=
  (if c.featJiffy then 0x007 else 0)
    ||| (if c.featDolphin && c.hasParallel then 0x0F8 else 0)
    ||| (if c.featEpyx then (if c.sectorOps then 0xF00 else 0x700) else 0)

/-- The value of an index past the table's end: an entry that is not valid (10_state R130). -/
def noEntry : Entry := ⟨false, 0, 0, ⟨0, false, false⟩, 0⟩

/-- `dev[k]` (10_state R130). -/
def entryAt (dev : List Entry) (k : Nat) : Entry := dev.getD k noEntry

/-- A flag of an entry as it reads: a hardwired bit reads 0 (10_state R131). -/
def Entry.has (c : Cfg) (f : ProtoFlag) (e : Entry) : Bool := (e.flags &&& wiredMask c).getLsbD f.bit

/-- A write of 1 to a flag; to a hardwired bit it is ignored (10_state R131). -/
def Entry.set (c : Cfg) (f : ProtoFlag) (e : Entry) : Entry :=
  { e with flags := e.flags ||| (f.mask &&& wiredMask c) }

/-- A write of 0 to a flag. -/
def Entry.clear (f : ProtoFlag) (e : Entry) : Entry := { e with flags := e.flags &&& ~~~f.mask }

/-- The entry after an ATN fall: a valid entry's transient bits are 0 (10_state R132, 41_iec_core R510). -/
def Entry.dropTransient (e : Entry) : Entry :=
  if e.valid then { e with flags := e.flags &&& persistentMask } else e

/-- The entry after a RESET: transient bits 0, persistent bits at their configured values (10_state R132). -/
def Entry.restore (c : Cfg) (e : Entry) : Entry :=
  { e with flags := e.configured &&& persistentMask &&& wiredMask c }

/-- `dev[k].f` of the machine. -/
def State.flag (s : State) (k : Nat) (f : ProtoFlag) : Bool := (entryAt s.dev k).has s.cfg f

/-- `dev[k].f <- 1`. -/
def State.setFlag (k : Nat) (f : ProtoFlag) (s : State) : State :=
  { s with dev := s.dev.modify k (Entry.set s.cfg f) }

/-- `dev[k].f <- 0`. -/
def State.clearFlag (k : Nat) (f : ProtoFlag) (s : State) : State :=
  { s with dev := s.dev.modify k (Entry.clear f) }

end Sys2Proof.Machine
end

