-- ==== Sys2Proof/Machine/Operands.lean ====
section
/-! DEFINITION. The operand forms of the rules: a device by bus address, by its flags, or by a partial primary; the
secondary of a frame; the device operand of a decode point; and the assembly of received bits. -/

namespace Sys2Proof.Machine

/-- `find(a)`: the least valid index with that bus address (41_iec_core R502). -/
def find (s : State) (a : BitVec 5) : Option Nat :=
  s.dev.findIdx? (fun e => e.valid && e.address == a)

/-- The least index whose entry has one of the flags (43_dolphindos R711, 45_scheduler R904). -/
def leastWith (s : State) (fs : List ProtoFlag) : Option Nat :=
  s.dev.findIdx? (fun e => fs.any (fun f => e.has s.cfg f))

/-- The valid indices in index order, which is the order of every per-device loop (41_iec_core R503). -/
def validIndices (s : State) : List Nat :=
  (List.range s.dev.length).filter (fun k => (entryAt s.dev k).valid)

/-- `addressed()` (41_iec_core R521). -/
def addressed (s : State) : Bool :=
  s.addr.primary == 0x3F || s.addr.primary == 0x5F || s.sel.current.isSome

/-- `jiffy_armed()` (42_jiffydos R601). -/
def jiffyArmed (s : State) : Bool :=
  s.cfg.featJiffy && s.fl.atnActive && s.addr.primary == 0

/-- `jiffy_lookup(rx)` (42_jiffydos R602): the entry is chosen first and tested for `JiffyEnabled` after. -/
def jiffyLookup (s : State) (rx : Byte) : Option Nat :=
  let j := match s.cfg.jiffyLookup with
    | .lowNibble => s.dev.findIdx? (fun e => e.valid && e.address.extractLsb' 0 4 == rx.extractLsb' 0 4)
    | .fullAddress => find s (addrField rx)
  match j with
  | some j => if s.flag j .jiffyEnabled then some j else none
  | none => none

/-- The secondary an ATN rise uses: 0x00 where none was captured (41_iec_core R512). -/
def riseSec (s : State) : Byte := if s.addr.secValid then s.addr.secondary else 0x00

/-- The role a primary asks for (41_iec_core R512). -/
inductive Role where
  | listen
  | talk
  | unlisten
  | untalk
  | none
  deriving DecidableEq, Repr

/-- The role of the captured primary, by its decode (30_encoding R321). -/
def roleOf (p : Byte) : Role :=
  match decodePrimary p with
  | .listen _ => .listen
  | .talk _ => .talk
  | .unlisten => .unlisten
  | .untalk => .untalk
  | _ => .none

/-- The device operand `k` of the decode point the sequencer is at (41_iec_core R525, 44_epyx R808, R809). -/
def siteDevice (s : State) : Option Nat :=
  match s.seq with
  | .decode (.cmd15 k) :: _ => some k
  | .decode (.sum k _) :: _ => some k
  | .decode (.header k _) :: _ => some k
  | _ => none

/-- `EPYX_SIGNATURES[v]` (44_epyx R802). -/
def signature (c : Cfg) : EpyxVer → Signature
  | .v1 => c.epyxSig1
  | .v2 => c.epyxSig2
  | .v3 => c.epyxSig3

/-- The least version whose first write is `w` (44_epyx R802). -/
def versionStarting (c : Cfg) (w : WriteMark) : Option EpyxVer :=
  if c.epyxSig1.first = w then some .v1
  else if c.epyxSig2.first = w then some .v2
  else if c.epyxSig3.first = w then some .v3
  else none

/-- `EPYX_SECTOR_CMD(sum)`; `epyx_sum` holds one of the three sector sums whenever a rule asks (44_epyx R808, R814). -/
def sectorFormat (c : Cfg) (sum : Byte) : SectorFormat :=
  if sum = 0x0B then c.sector0B else if sum = 0xB8 then c.sectorB8 else c.sectorBA

/-- The decode of a sector command (44_epyx R814). -/
def sectorOp (f : SectorFormat) (t sec c : Byte) : SectorOp :=
  match f.rows.find? (fun r => r.track == t && r.sector == sec && r.command == c) with
  | some r => r.op
  | none => f.otherwise

/-- The 8-bit sum of bytes (00_scope R11, 44_epyx R807). -/
def sumBytes : List Byte → Byte
  | [] => 0
  | b :: bs => b + sumBytes bs

/-- `rx | (bit << i)` (30_encoding R320). -/
def putBit (rx : Byte) (i : Nat) (bit : Bool) : Byte :=
  if bit then rx ||| BitVec.twoPow 8 i else rx

/-- The level of a bit: released is 1 (30_encoding R311). -/
def levelOf (bit : Bool) : Level := if bit then .high else .low

/-- The other level. -/
def flipLevel : Level → Level
  | .low => .high
  | .high => .low

/-- Slot `s` of four, in time order. -/
def slotOf {α : Type} (t : Slots α) : Nat → α
  | 0 => t.s0
  | 1 => t.s1
  | 2 => t.s2
  | _ => t.s3

/-- The bit positions of the four JiffyDOS pairs, in the time order of a receive (42_jiffydos R604). -/
def jiffyPairs : Slots (Nat × Nat) := ⟨(4, 5), (6, 7), (3, 1), (2, 0)⟩

/-- The bit positions of the four Epyx transmit pairs, in time order (44_epyx R811). -/
def epyxPairs : Slots (Nat × Nat) := ⟨(7, 5), (6, 4), (3, 1), (2, 0)⟩

/-- The (CLK, DATA) levels of `JIFFY_TX_MAP(s, b)` (42_jiffydos R606). The map says which pair slot `s` carries
(00_scope R4, 20_memory R210). -/
def jiffyTxLevels (c : Cfg) (s : Nat) (b : Byte) : Level × Level :=
  let w := slotOf c.jiffyTxMap s
  let (p, q) := slotOf jiffyPairs w.pair
  let (onClk, onData) := if w.swap then (q, p) else (p, q)
  (levelOf (b.getLsbD onClk != w.clkInverted), levelOf (b.getLsbD onData != w.dataInverted))

/-- The (CLK, DATA) levels of `JIFFY_BLK_MAP(s, b)` (42_jiffydos R609). -/
def jiffyBlkLevels (c : Cfg) (s : Nat) (b : Byte) : Level × Level :=
  let w := slotOf c.jiffyBlkMap s
  (levelOf (b.getLsbD w.clkBit != w.clkInverted), levelOf (b.getLsbD w.dataBit != w.dataInverted))

/-- The (CLK, DATA) levels of `EPYX_TX_LINE_MAP(v[p], v[q])` in slot `s` (44_epyx R811). -/
def epyxTxLevels (c : Cfg) (s : Nat) (v : Byte) : Level × Level :=
  let (p, q) := slotOf epyxPairs s
  match v.getLsbD p, v.getLsbD q with
  | false, false => c.epyxTxLineMap.s0
  | false, true => c.epyxTxLineMap.s1
  | true, false => c.epyxTxLineMap.s2
  | true, true => c.epyxTxLineMap.s3

/-- `JIFFY_TX_STATUS_ENC(st)` (42_jiffydos R607). -/
def jiffyStatusCode (c : Cfg) : TxStatus → StatusCode
  | .more => c.jiffyMore
  | .last => c.jiffyLast
  | .error => c.jiffyError

/-- The transmit status of a `can_read()` count (42_jiffydos R607). -/
def jiffyStatusOf (n : Nat) : TxStatus :=
  if n = 0 then .error else if n = 1 then .last else .more

/-- The parallel byte of a burst and the byte it carries, in either direction (`DOLPHIN_BURST`, 92_eei D31). -/
def burstBits (c : Cfg) (b : Byte) : Byte := if c.dolphinBurst.inverted then ~~~b else b

/-- The buffer minimums a configuration must meet (00_scope R4, 70_reset R1100), and the ranges R4 gives the table
size, the Epyx block size and the Epyx receive order. -/
def cfgOk (c : Cfg) : Bool :=
  (!c.featEpyx || decide (32 ≤ c.bufSize))
    && (!c.featDolphin || decide (2 ≤ c.bufSize))
    && (!c.sectorOps || decide (256 ≤ c.bufSize))
    && decide (1 ≤ c.maxDevices)
    && decide (c.epyxBlockMax ≤ min c.bufSize 255)
    && (c.epyxRxOrder.length == 8)
    && (List.range 8).all (fun i => c.epyxRxOrder.contains i)

end Sys2Proof.Machine
end

