-- ==== Sys2Proof/Machine/Ops.lean ====
section
/-! DEFINITION. The named operations over lines, time, buffers, the interrupt mask and the sequencer (40_timing), and
the block's exceptions: the one operation by which a routine fails (60_exceptions R1001, 45_scheduler R915), the ATN
interrupt and its return (45_scheduler R912), the ATN edges (41_iec_core R510, 45_scheduler R902) and RESET
(70_reset R1102). -/

namespace Sys2Proof.Machine

/-- What an operation answers. -/
abbrev Res := Host.Outcome State Fault Refusal

/-- `r`, and then `f` from its next state. -/
def andThen (r : Res) (f : State → Res) : Res :=
  match r with
  | .next s => f s
  | .fault e => .fault e
  | .refused e => .refused e

/-! ## The sequencer (10_state R105) -/

/-- The statements `ps` come next, and then what came next before. -/
def State.push (ps : List Pos) (s : State) : State := { s with seq := ps ++ s.seq }

/-- The statement at the head is done: a return, or the step to the statement after it. -/
def State.pop (s : State) : State := { s with seq := s.seq.tail }

/-- A device call, and then `ps` (20_memory R212). -/
def State.call (c : DevCall) (ps : List Pos) (s : State) : State := s.push (.yield (.call c) :: ps)

/-! ## Lines (40_timing R400 to R406, R417) -/

/-- Whether a line is low: the wired-AND of its drivers (40_timing R404); an unwired pin reads `HIGH`
(20_memory R205). -/
def lineLow (s : State) : Line → Bool
  | .atn => s.env.drives.hostAtn
  | .clk => s.drv.clk || s.env.drives.hostClk || s.env.drives.othersClk
  | .data => s.drv.data || s.env.drives.hostData || s.env.drives.othersData
      || (s.cfg.hasCtrlPin && s.drv.ctrlOn && s.env.drives.hostAtn)
  | .reset => s.cfg.hasResetPin && s.env.drives.reset
  | .ctrl => s.cfg.hasCtrlPin && s.drv.ctrlOn
  | .par k => s.cfg.hasParallel
      && ((s.drv.parOutMode && !s.drv.parOut.getLsbD k) || s.env.drives.par.getLsbD k)
  | .ht => s.cfg.hasParallel && (s.drv.ht || s.env.drives.hostHt)
  | .hr => s.cfg.hasParallel && s.env.drives.hostHr

/-- `read(L)` (40_timing R403). -/
def readLine (s : State) (l : Line) : Level := if lineLow s l then .low else .high

/-- `drive_low(CLK)` (`true`) and `release(CLK)` (`false`) (40_timing R401, R402). -/
def setClk (on : Bool) (s : State) : State := { s with drv := { s.drv with clk := on } }

/-- `drive_low(DATA)` and `release(DATA)`. -/
def setData (on : Bool) (s : State) : State := { s with drv := { s.drv with data := on } }

/-- `drive_low(HT)` and `release(HT)`; the driver exists only with the cable (10_state R140, 20_memory R205). -/
def setHt (on : Bool) (s : State) : State :=
  if s.cfg.hasParallel then { s with drv := { s.drv with ht := on } } else s

/-- `atn_hardware_override(enable)` (40_timing R406). -/
def override (enable : Bool) (s : State) : State :=
  if s.cfg.hasCtrlPin then { s with drv := { s.drv with ctrlOn := enable } } else s

/-- `release(CLK) ; release(DATA)`. -/
def releaseBoth (s : State) : State := setData false (setClk false s)

/-- `set_lines(cl, dl)` (42_jiffydos R606). -/
def setLines (l : Level × Level) (s : State) : State :=
  setData (l.2 == .low) (setClk (l.1 == .low) s)

/-- `par_output(b)` (40_timing R417). -/
def parOutput (b : Byte) (s : State) : State :=
  if s.cfg.hasParallel then { s with drv := { s.drv with parOutMode := true, parOut := b } } else s

/-- `par_input()` (40_timing R417). -/
def parInput (s : State) : State := { s with drv := { s.drv with parOutMode := false } }

/-- `par_read()`: pin k is bit k, `HIGH` is 1 (40_timing R417). -/
def parRead (s : State) : Byte :=
  BitVec.ofFnLE (fun k : Fin 8 => !lineLow s (.par k))

/-- `drive_low(L)` (`true`) or `release(L)` (`false`) of any line. PARk is bit k of `par_out`, 1 is released
(10_state R140). ATN, RESET and HR are inputs, and a drive of them is refused (40_timing R400). -/
def driveLine (l : Line) (on : Bool) (s : State) : Res :=
  match l with
  | .clk => .next (setClk on s)
  | .data => .next (setData on s)
  | .ctrl => .next (override on s)
  | .ht => .next (setHt on s)
  | .par k =>
      if s.cfg.hasParallel then
        .next { s with drv := { s.drv with
          parOut := if on then s.drv.parOut &&& ~~~BitVec.twoPow 8 k else s.drv.parOut ||| BitVec.twoPow 8 k } }
      else .next s
  | .atn => .refused .inputLine
  | .reset => .refused .inputLine
  | .hr => .refused .inputLine

/-! ## Time and waits (40_timing R407 to R414) -/

/-- `now()` (40_timing R414). -/
def now (s : State) : Micros := s.env.micros

/-- `elapsed(start)` (40_timing R409). -/
def elapsed (s : State) (start : Micros) : Nat := (s.env.micros - start).toNat

/-- `atn_mismatch()` (40_timing R407). -/
def atnMismatch (s : State) : Bool := lineLow s .atn != s.fl.atnActive

/-- The last place of the band `[half/2 - T_TOL, half/2 + T_TOL]` (40_timing R412): its places are the whole µs in it,
counted from 0. -/
def bandLast (c : Cfg) (half : Nat) : Nat := 2 * c.tTol - half % 2

/-- Whether `half` half microseconds are over after `e` µs, at the drawn place of the band (40_timing R412). -/
def timeUp (c : Cfg) (a : Answer) (e half : Nat) : Bool :=
  decide ((half + 1) / 2 + min a.jitter (bandLast c half) ≤ e + c.tTol)

/-- The latest µs of the band: from it on, `half` half microseconds are over at every place. -/
def bandEnd (c : Cfg) (half : Nat) : Nat := (half + 1) / 2 + bandLast c half - c.tTol

/-- `?wait_for(L, lvl, t)`, and then `ps` (00_scope R9, 40_timing R408). -/
def State.waitFor (l : Line) (lvl : Level) (t : Nat) (ps : List Pos) (s : State) : State :=
  s.push (.yield (.waitFor l lvl t (now s) true) :: ps)

/-- `r <- wait_for(L, lvl, t)`, and then `ps`, which read `r` from `work.wait`. -/
def State.tryWait (l : Line) (lvl : Level) (t : Nat) (ps : List Pos) (s : State) : State :=
  s.push (.yield (.waitFor l lvl t (now s) false) :: ps)

/-- `?wait_us(t)`, and then `ps` (40_timing R410). -/
def State.hold (t : Nat) (ps : List Pos) (s : State) : State :=
  s.push (.yield (.waitUs t (now s) true) :: ps)

/-- `?wait_until(t0 + d)` with `d` in half microseconds, and then `ps` (40_timing R413). -/
def State.waitHalf (t0 : Micros) (half : Nat) (ps : List Pos) (s : State) : State :=
  s.push (.yield (.waitUntil half t0) :: ps)

/-- `pulse_low(L, t)`, and then `ps` (40_timing R411); `strict` is its `?`. -/
def pulseLow (l : Line) (t : Nat) (strict : Bool) (ps : List Pos) (s : State) : Res :=
  andThen (driveLine l true s) fun s =>
    .next (s.push (.yield (.waitUs t (now s) false) :: .pulseEnd l strict :: ps))

/-- `wait_hr_fall(t)`, and then `ps` (40_timing R418): the level at entry is the first one seen. `edge` is the level whose
arrival counts. -/
def State.waitHr (edge : Level) (t : Nat) (strict : Bool) (ps : List Pos) (s : State) : State :=
  s.push (.yield (.waitHr edge t (now s) (readLine s .hr) strict) :: ps)

/-! ## Buffers (20_memory R203, R204) -/

/-- The byte listed at an index. -/
def memGet : Memory → Nat → Option Byte
  | [], _ => none
  | c :: m, i => if c.1 = i then some c.2 else memGet m i

/-- The byte at an index is `b`; the canonical form is kept. -/
def memSet : Memory → Nat → Byte → Memory
  | [], i, b => [(i, b)]
  | c :: m, i, b =>
      if i < c.1 then (i, b) :: c :: m
      else if i = c.1 then (i, b) :: m
      else c :: memSet m i b

/-- The byte at index `i` of a buffer of `size` bytes: out of range and unwritten are faults (60_exceptions R1021). -/
def memRead (size : Nat) (m : Memory) (i : Nat) : Except Fault Byte :=
  if i < size then
    match memGet m i with
    | some b => .ok b
    | none => .error .unwritten
  else .error .bufIndex

/-- The `n` bytes from index `i`. -/
def memBytes (size : Nat) (m : Memory) (i : Nat) : Nat → Except Fault (List Byte)
  | 0 => .ok []
  | n + 1 =>
      match memRead size m i with
      | .error e => .error e
      | .ok b =>
          match memBytes size m (i + 1) n with
          | .error e => .error e
          | .ok bs => .ok (b :: bs)

/-- `buf[i]`. -/
def bufRead (s : State) (i : Nat) : Except Fault Byte := memRead s.cfg.bufSize s.buf i

/-- `buf[i] <- b`. -/
def bufWrite (i : Nat) (b : Byte) (s : State) : Res :=
  if i < s.cfg.bufSize then .next { s with buf := memSet s.buf i b } else .fault .bufIndex

/-- `buf[i ..] <- bs`. -/
def bufFill (i : Nat) : List Byte → State → Res
  | [], s => .next s
  | b :: bs, s => andThen (bufWrite i b s) (bufFill (i + 1) bs)

/-- The captured command string `cmd_buf[0 .. cmd_len-1]` (41_iec_core R525). -/
def cmdBytes (s : State) : Except Fault (List Byte) := memBytes s.cfg.cmd15Max s.cmd.buf 0 s.cmd.len

/-- `cmd_append(b)` (41_iec_core R524). -/
def cmdAppend (b : Byte) (s : State) : State :=
  if s.cmd.len < s.cfg.cmd15Max then
    { s with cmd := { s.cmd with buf := memSet s.cmd.buf s.cmd.len b, len := s.cmd.len + 1 } }
  else { s with cmd := { s.cmd with overflow := true } }

/-! ## The ATN falling edge and its interrupt -/

/-- `atn_fall()` (41_iec_core R510). -/
def atnFall (s : State) : State :=
  let s := override false (setData true (setClk false s))
  { s with
    fl := { s.fl with atnActive := true }
    bus := ⟨.underAtn, false⟩
    dev := s.dev.map Entry.dropTransient
    addr := ⟨0, 0, false⟩
    sel := { s.sel with current := none }
    dol := { s.dol with preArm := false } }

/-- The registry dispatches the interrupt of ATN pin `pin` to this engine (10_state R160). -/
def dispatchedHere (s : State) (pin : Nat) : Bool :=
  s.registry.any fun r => r.atnPin == pin && r.engine == s.engine

/-- `atn_isr()` (45_scheduler R912). Entry saves nothing and return restores nothing (60_exceptions R1011, R1012). An
ISR that finds ATN high does nothing (R912, R1008). -/
def atnIsr (s : State) : State :=
  if s.fl.irqMasked then { s with fl := { s.fl with irqPending := true } }
  else if s.fl.inTick then s
  else if lineLow s .atn && !s.fl.atnActive then atnFall s
  else s

/-- `mask_irq()` (40_timing R416): guards do not nest. -/
def maskIrq (s : State) : Res :=
  if s.fl.irqMasked then .fault .maskNested
  else .next { s with fl := { s.fl with irqMasked := true } }

/-- `unmask_irq()` (40_timing R416): an edge latched while masked runs the ISR now (45_scheduler R912). -/
def unmaskIrq (s : State) : State :=
  if s.fl.irqPending then atnIsr { s with fl := { s.fl with irqMasked := false, irqPending := false } }
  else { s with fl := { s.fl with irqMasked := false } }

/-! ## Failure: the block's exception (60_exceptions R1001, 45_scheduler R915) -/

/-- `on_fail(kind)`: what `tick()` does with a failed routine (45_scheduler R915). -/
def onFail (kind : ErrKind) (s : State) : State :=
  match kind with
  | .timeoutMissedEdge => { releaseBoth s with bus := { s.bus with done := true } }
  | .deviceRefused => { releaseBoth s with bus := { s.bus with done := true } }
  | .checksumMismatch => releaseBoth s
  | .atnPreempted => s
  | .notAddressed => s
  | .verifyError => s

/-- The return of a failure through its callers (60_exceptions R1001). A step of `tick()` translates it and goes on at
S7 (45_scheduler R900, R915); a failed S7 goes on at S8; the post-tick poll ends (R914); an Epyx block first closes
the load (44_epyx R812); a burst transmit first releases CLK and the parallel bus (43_dolphindos R712). -/
def unwind (kind : ErrKind) : List Pos → State → State
  | [], s => onFail kind { s with seq := [.yield .between] }
  | .tick .s3 :: r, s => onFail kind { s with seq := .tick .s7 :: r }
  | .tick .s4 :: r, s => onFail kind { s with seq := .tick .s7 :: r }
  | .tick .s5 :: r, s => onFail kind { s with seq := .tick .s7 :: r }
  | .tick .s6 :: r, s => onFail kind { s with seq := .tick .s7 :: r }
  | .tick .s7 :: r, s => onFail kind { s with seq := .tick .s7 :: r }
  | .tick .s8 :: r, s => onFail kind { s with seq := .tick .s8 :: r }
  | .tick .posted :: r, s => onFail kind { s with seq := .tick .posted :: r }
  | .epyx (.guarded k) :: r, s => { s with seq := .epyx (.abort k kind) :: r }
  | .dol .releaseClk :: r, s => unwind kind r (parInput (setClk false s))
  | _ :: r, s => unwind kind r s

/-- The first two acts of `fail(kind)` (60_exceptions R1001): unmask, and return the parallel bus to input. -/
def unguard (s : State) : State :=
  let s := if s.fl.irqMasked then unmaskIrq s else s
  if s.drv.parOutMode then parInput s else s

/-- `fail(kind)` (60_exceptions R1001): unmask, return the parallel bus to input, and return to the callers. No rule
fails with `VerifyError` or `NotAddressed` (R1000, R1006). -/
def failWith (kind : ErrKind) (s : State) : Res :=
  match kind with
  | .verifyError => .fault .verifyFail
  | .notAddressed => .fault .verifyFail
  | .timeoutMissedEdge | .atnPreempted | .deviceRefused | .checksumMismatch => .next (unwind kind s.seq (unguard s))

/-- The `?` of 00_scope R9 on a wait's result. -/
def settle (r : WaitResult) (s : State) : Res :=
  match r with
  | .reached => .next s
  | .atnAbort => failWith .atnPreempted s
  | .timeout => failWith .timeoutMissedEdge s

/-- A wait ends with a result: a strict one settles it, another one leaves it for the next statement. -/
def finishWait (strict : Bool) (r : WaitResult) (s : State) : Res :=
  if strict then settle r s else .next { s with work := { s.work with wait := r } }

/-! ## `atn_request()` (45_scheduler R902) and RESET -/

/-- `atn_request()` (45_scheduler R902), up to the point where an ATN rise runs the captured command
(41_iec_core R512). -/
def atnRequest (s : State) : State :=
  if lineLow s .atn && !s.fl.atnActive then atnFall s
  else if !lineLow s .atn && s.fl.atnActive then
    { s with
      fl := { s.fl with atnActive := false }
      bus := { s.bus with done := false }
      seq := .decode .rise :: s.seq }
  else s

/-- The fields after `reset_all()` (70_reset R1102): the `R` column of 10_state R170. The table, the registry and the
configuration are kept; fields the spec leaves unspecified hold the values of assumption log 1. -/
def resetFields (s : State) : State :=
  { s with
    bus := ⟨.idle, false⟩
    fl := { s.fl with atnActive := false, inTick := true, irqMasked := false, irqPending := false }
    addr := ⟨0, 0, false⟩
    sel := ⟨none, none, 0, none, 0⟩
    dev := s.dev.map (Entry.restore s.cfg)
    drv := ⟨false, false, false, false, 0xFF, false⟩
    buf := []
    talk := ⟨true, 0⟩
    dol := ⟨false, 0, 0, false, 0, 0⟩
    cmd := ⟨[], 0, false⟩
    epyx := ⟨0, none, 0, 0⟩ }

/-- `reset_all()` (70_reset R1102): the fields, and then `reset()` on each valid entry in index order. -/
def resetAll (s : State) : State :=
  (resetFields s).push ((validIndices s).map fun k => .yield (.call (.reset k)))

end Sys2Proof.Machine
end

