-- ==== Sys2Proof/Machine/Buffer.lean ====
section
/-! DEFINITION. The bytes the engine holds for a device: the DolphinDOS pre-buffer and capture and their flush
(43_dolphindos R704, R705, R707), and the delivery of a received byte (41_iec_core R526). -/

namespace Sys2Proof.Machine

/-- The `write` calls of held bytes: the last one carries the EOI it was received with (43_dolphindos R705). -/
def heldWrites (j : Nat) (eoi : Bool) : List Byte → List Pos
  | [] => []
  | [b] => [.yield (.call (.write j b eoi))]
  | b :: bs => .yield (.call (.write j b false)) :: heldWrites j eoi bs

/-- The device calls of `dol_flush()` (43_dolphindos R705). -/
def flushCalls (s : State) (held : List Byte) : List Pos :=
  let j := s.dol.preDev
  let writes := heldWrites j s.dol.preEoi held
  if s.sel.listener = some j ∧ s.sel.listenerSec = 0x61 then writes
  else
    .yield (.call (.listen j 0x61)) :: writes ++ .yield (.call (.unlisten j)) ::
      (if s.sel.listener = some j then [.yield (.call (.listen j s.sel.listenerSec))] else [])

/-- `dol_flush()` with at least one byte held, and then `ps` (43_dolphindos R705). -/
def dolFlush (ps : List Pos) (s : State) : Res :=
  match memBytes s.cfg.bufSize s.buf 0 s.dol.preN with
  | .error e => .fault e
  | .ok held =>
      .next { s with
        dol := { s.dol with preN := 0, preArm := false }
        seq := flushCalls s held ++ ps ++ s.seq }

/-- `dol_flush()`, and then the statement `resume`, which runs `next`; nothing held goes on at once. -/
def flushThen (resume : Pos) (next : State → Res) (s : State) : Res :=
  if s.dol.preN = 0 then next s else dolFlush [resume] s

/-- `dol_flush_before_call(k, kind, sec)`: a listen on 0x61 or 0x6F to the holding device does not flush
(43_dolphindos R705). -/
def flushBeforeCall (k : Nat) (isListen : Bool) (sec : Byte) (resume : Pos) (next : State → Res) (s : State) : Res :=
  if isListen ∧ k = s.dol.preDev ∧ (sec = 0x61 ∨ sec = 0x6F) then next s
  else flushThen resume next s

/-- The end of `claim_buf()`: what the buffer held is given up (43_dolphindos R705). -/
def dropCapture (s : State) : State := { s with dol := { s.dol with capN := 0 } }

/-- `dol_hold(k, b, eoi)` (43_dolphindos R704); `other` is what follows where the byte is not held. `dol_pre_n` stays
within `DOLPHIN_PREBUFFER_BYTES` (10_state R150, 00_scope R11): a byte past it is not held (DEDUCED, assumption log 18). -/
def dolHold (k : Nat) (b : Byte) (eoi : Bool) (other : State → Res) (s : State) : Res :=
  if s.dol.preArm ∧ s.sel.listener = some k ∧ s.sel.listenerSec = 0x61 ∧ s.dol.preN < s.cfg.prebufferBytes then
    andThen (bufWrite s.dol.preN b s) fun t =>
      .next { t with dol := { t.dol with
        capN := if s.dol.preN = 0 then 0 else s.dol.capN
        preN := s.dol.preN + 1
        preDev := k
        preEoi := eoi
        preArm := !(s.dol.preN + 1 == s.cfg.prebufferBytes || eoi) } }
  else other s

/-- `dol_capture(b)` (43_dolphindos R707). -/
def dolCapture (b : Byte) (s : State) : Res :=
  if s.dol.capN < s.cfg.prebufferBytes then
    andThen (bufWrite s.dol.capN b s) fun t =>
      .next { t with dol := { t.dol with capN := s.dol.capN + 1 } }
  else .next s

/-- `deliver(k, b, eoi)` (41_iec_core R526), with `dol_flush_before_byte(k)` (43_dolphindos R705). -/
def deliver (k : Nat) (b : Byte) (eoi : Bool) (s : State) : Res :=
  let s := if s.sel.listenerSec = 0x6F then cmdAppend b s else s
  let write : List Pos := [.yield (.call (.write k b eoi))]
  if 0 < s.dol.preN ∧ s.dol.preDev = k ∧ s.sel.listener = some k ∧ s.sel.listenerSec = 0x61 then dolFlush write s
  else .next (s.push write)

/-- A rule's operand `current_device`: a device must be selected (10_state R103 item 4). -/
def withCurrent (s : State) (f : Nat → Res) : Res :=
  match s.sel.current with
  | some k => f k
  | none => .fault .noDevice

end Sys2Proof.Machine
end

