-- ==== Sys2Proof/Machine/Dolphin.lean ====
section
/-! DEFINITION. The DolphinDOS engine (43_dolphindos): the probe, the byte receive and transmit, the burst commands and
the burst transfers, with the polarities of `DOLPHIN_BURST` (92_eei D31). -/

namespace Sys2Proof.Machine

/-- DolphinDOS exists and acts for device `k` (43_dolphindos R701). -/
def dolphinOn (s : State) (k : Nat) : Bool :=
  s.cfg.featDolphin && s.cfg.hasParallel && s.flag k .dolphinEnabled

/-- `dolphin_probe_if_armed(k)` (41_iec_core R535), up to the wait of `dolphin_probe(k)` (43_dolphindos R702). -/
def probeIfArmed (k : Option Nat) (s : State) : Res :=
  match k with
  | some k =>
      if dolphinOn s k then .next (s.waitHr .low 0 false [.rx (.probe k), .dol .returned]) else .next s
  | none => .next s

/-- `dolphin_probe(k)` after its wait (43_dolphindos R702): an ATN rise ends it without a detection. -/
def probeEnd (k : Nat) (s : State) : Res :=
  match s.work.wait with
  | .atnAbort => .next s
  | .reached | .timeout => pulseLow .ht s.cfg.tDolHtPulse false [] (s.setFlag k .dolphinDetected)

/-- `dolphin_receive_byte(k)`, D1 (43_dolphindos R703). -/
def dolReceive (k : Nat) (s : State) : Res :=
  .next ((setData false s).tryWait .clk .low s.cfg.tDolEoiWait [.dol (.rxEdge k), .dol .returned])

/-- D1 after its wait: a timeout is the sender's EOI. -/
def dolRxEdge (k : Nat) (s : State) : Res :=
  match s.work.wait with
  | .atnAbort => failWith .atnPreempted s
  | .timeout => pulseLow .data s.cfg.tDolEoiPulse true [.dol (.rxPulsed k)] s
  | .reached => .next (s.push [.dol (.rxData k false)])

/-- D1 after the EOI pulse. -/
def dolRxPulsed (k : Nat) (s : State) : Res :=
  .next (s.waitFor .clk .low 0 [.dol (.rxData k true)])

/-- D2 and D3. -/
def dolRxData (k : Nat) (eoi : Bool) (s : State) : Res :=
  let b := parRead s
  dolHold k b eoi (deliver k b eoi) (setData true s)

/-- `dolphin_transmit_byte(k, n)` (43_dolphindos R706), up to `peek()`. -/
def dolTransmit (k n : Nat) (s : State) : Res :=
  if n = 0 then .next ((setClk false s).waitFor .data .high 0 [.dol .txEmpty])
  else andThen (maskIrq s) fun s => .next (s.call (.peek k) [.dol (.txPeeked k n), .dol .returned])

/-- `release(CLK)` and the wait for the receiver, with the peeked byte. -/
def dolTxPeeked (k n : Nat) (s : State) : Res :=
  let b := s.work.answer.byte
  .next ((setClk false s).waitFor .data .high 0 [.dol (.txReady k n b)])

/-- The EOI handshake of the last byte. -/
def dolTxReady (k n : Nat) (b : Byte) (s : State) : Res :=
  if n = 1 then .next (s.waitFor .data .low s.cfg.tDolTxEoiLow [.dol (.txHigh k b)])
  else .next (s.push [.dol (.txValid k b)])

/-- The high leg of the EOI handshake. -/
def dolTxHigh (k : Nat) (b : Byte) (s : State) : Res :=
  .next (s.waitFor .data .high 0 [.dol (.txValid k b)])

/-- "Data valid", the end of the masked block, and the consumption of the byte. -/
def dolTxValid (k : Nat) (b : Byte) (s : State) : Res :=
  .next ((unmaskIrq (setClk true (parOutput b s))).call (.read k) [.dol (.txRead b)])

/-- The capture and the wait for the acknowledge. -/
def dolTxRead (b : Byte) (s : State) : Res :=
  andThen (dolCapture b s) fun s => .next (s.tryWait .data .low s.cfg.tDolAck [.dol .txAcked])

/-- The parallel bus back to input, and the acknowledge's result. -/
def dolTxAcked (s : State) : Res :=
  let s := parInput s
  match s.work.wait with
  | .atnAbort => failWith .atnPreempted s
  | .timeout => failWith .timeoutMissedEdge s
  | .reached => .next { s with talk := ⟨false, now s⟩ }

/-- `dolphin_request(k, dir)` (43_dolphindos R708, R710). -/
def dolphinRequest (k : Nat) (dir : BurstDir) (s : State) : State :=
  if dolphinOn s k && s.flag k .dolphinBurstEnabled then
    match dir with
    | .tx =>
        let s := s.setFlag k .dolphinBurstTx
        { s with dol := { s.dol with reqTime := now s } }
    | .rx =>
        let s := s.setFlag k .dolphinBurstRx
        { s with dol := { s.dol with preN := 0, preArm := false, reqTime := now s } }
  else s

/-- `dolphin_burst_enable(k, on)` (43_dolphindos R709). -/
def burstEnable (k : Nat) (on : Bool) (s : State) : State :=
  if dolphinOn s k then
    if on then s.setFlag k .dolphinBurstEnabled else s.clearFlag k .dolphinBurstEnabled
  else s

/-- `DOLPHIN_DIR_OK(dir)` (43_dolphindos R711). -/
def dirOk (s : State) (dir : BurstDir) : Bool :=
  match s.cfg.dolphinDirOk with
  | .released => !s.fl.atnActive && !s.drv.parOutMode
  | .fixed tx rx => match dir with
    | .tx => tx
    | .rx => rx

/-- `dolphin_burst_tx(k)` (43_dolphindos R712), up to `talk(0x60)`. This `talk` is no flush point (DEDUCED, assumption
log 32): R705's list has every `talk` call, its helper runs from `do_listen` and `do_talk` only, and R712 has no flush. -/
def burstTx (k : Nat) (s : State) : Res :=
  .next (s.call (.talk k 0x60) [.dol (.burstTalk k), .dol .releaseClk, .dol .returned])

/-- `dolphin_burst_rx(k)` (43_dolphindos R713), up to `listen(0x61)`. -/
def burstRx (k : Nat) (s : State) : Res :=
  .next (s.call (.listen k 0x61) [.dol (.burstListen k), .dol .returned])

/-- The delay of a burst (43_dolphindos R711). -/
def burstDelay (c : Cfg) : BurstDir → Nat
  | .tx => c.tDolBurstTxDelay
  | .rx => c.tDolBurstRxDelay

/-- `dolphin_pending()` (43_dolphindos R711). The delay is over at a drawn place of its band (40_timing R412); the draw is
that of the last device call. -/
def dolphinPending (s : State) : Res :=
  match leastWith s [.dolphinBurstTx, .dolphinBurstRx] with
  | none => .next s
  | some k =>
      let dir : BurstDir := if s.flag k .dolphinBurstTx then .tx else .rx
      if !timeUp s.cfg s.work.answer (elapsed s s.dol.reqTime) (2 * burstDelay s.cfg dir) then .next s
      else if !dirOk s dir then .next s
      else
        let s := (s.clearFlag k .dolphinBurstTx).clearFlag k .dolphinBurstRx
        match dir with
        | .tx => burstTx k s
        | .rx => burstRx k s

/-- `burst_send(b)` (43_dolphindos R712), up to the HT pulse. -/
def burstSend (b : Byte) (ps : List Pos) (s : State) : Res :=
  andThen (maskIrq s) fun s =>
    pulseLow .ht s.cfg.tDolHtPulse true (.dol .sendPulsed :: ps) (parOutput (burstBits s.cfg b) s)

/-- The host's answer to a burst byte. -/
def sendPulsed (s : State) : Res :=
  .next (s.waitHr s.cfg.dolphinBurst.hrEdge s.cfg.tDolBurstAck true [.dol .sendTaken])

/-- The captured bytes are sent again first, from index `i` on. -/
def burstHeld (k i : Nat) (s : State) : Res :=
  if i < s.dol.capN then
    match bufRead s i with
    | .error e => .fault e
    | .ok b => burstSend b [.dol (.burstHeld k (i + 1))] s
  else .next (s.call (.canRead k) [.dol (.burstCount k)])

/-- CLK says that a burst is in progress (`true`) or over (`false`) (43_dolphindos R712). -/
def burstClk (busy : Bool) (s : State) : State := setClk ((s.cfg.dolphinBurst.busy == .low) == busy) s

/-- The device's answer: not decided asks again, none ends the burst. -/
def burstCount (k : Nat) (s : State) : Res :=
  let n := s.work.answer.count
  if n.msb then .next (s.push [.dol (.burstAsk k)])
  else if n = 0 then
    .next ((parInput (burstClk false s)).call (.untalk k) [.dol .burstEnd])
  else .next (s.call (.read k) [.dol (.burstByte k)])

/-- One burst byte is received (43_dolphindos R713). -/
def burstTake (k : Nat) (s : State) : Res :=
  let b := burstBits s.cfg (parRead s)
  let eoi := readLine s .clk == s.cfg.dolphinBurst.eoi
  pulseLow .ht s.cfg.tDolHtPulse true [.dol (.burstTaken k b eoi)] s

/-- The next burst byte: masked, and the wait for the host. -/
def burstWait (k : Nat) (s : State) : Res :=
  andThen (maskIrq s) fun s => .next (s.waitHr s.cfg.dolphinBurst.hrEdge 0 true [.dol (.burstTake k)])

/-- The statements of the DolphinDOS engine. -/
def runDol (p : DolPos) (s : State) : Res :=
  match p with
  | .rxEdge k => dolRxEdge k s
  | .rxPulsed k => dolRxPulsed k s
  | .rxData k eoi => dolRxData k eoi s
  | .txEmpty => failWith .deviceRefused s
  | .txPeeked k n => dolTxPeeked k n s
  | .txReady k n b => dolTxReady k n b s
  | .txHigh k b => dolTxHigh k b s
  | .txValid k b => dolTxValid k b s
  | .txRead b => dolTxRead b s
  | .txAcked => dolTxAcked s
  | .sendPulsed => sendPulsed s
  | .sendTaken => .next (unmaskIrq s)
  | .burstTalk k => burstHeld k 0 (burstClk true s)
  | .burstHeld k i => burstHeld k i s
  | .burstAsk k => .next (s.call (.canRead k) [.dol (.burstCount k)])
  | .burstCount k => burstCount k s
  | .burstByte k => burstSend s.work.answer.byte [.dol (.burstAsk k)] s
  | .burstEnd => .next (dropCapture (setClk false s))
  | .burstListen k => burstWait k (parInput s)
  | .burstTake k => burstTake k s
  | .burstTaken k b eoi => .next ((unmaskIrq s).call (.write k b eoi) [.dol (.burstNext k eoi)])
  | .burstNext k eoi => if eoi then .next (s.call (.unlisten k) []) else burstWait k s
  | .releaseClk => .next s
  | .returned => if s.drv.parOutMode then .fault .parDirLeak else .next s

end Sys2Proof.Machine
end

