-- ==== Sys2Proof/Machine/Iec.lean ====
section
/-! DEFINITION. The standard IEC byte: the receive with its JiffyDOS detection window (41_iec_core R530 to R536,
42_jiffydos R603), the talker's gap, the transmit and the consumption of a sent byte (41_iec_core R540 to R548). -/

namespace Sys2Proof.Machine

/-! ## Receive (41_iec_core R530) -/

/-- Step R3: the wait for CLK to fall. -/
def rxClkFall (s : State) : Res :=
  .next (s.tryWait .clk .low s.cfg.tIecEoiWait [.rx .eoiTest])

/-- `iec_receive_byte()`, steps R1 and R2. -/
def iecReceive (s : State) : Res :=
  let s := setData false s
  if s.fl.atnActive then .next (s.waitFor .data .high 0 [.rx .clkFall]) else rxClkFall s

/-- Step R3 after its wait: a timeout is the sender's EOI, and under ATN it has no meaning (R532). -/
def rxEoiTest (s : State) : Res :=
  match s.work.wait with
  | .atnAbort => failWith .atnPreempted s
  | .timeout =>
      if s.fl.atnActive then .next (s.waitFor .clk .low 0 [.rx (.bit 0 0 false)])
      else pulseLow .data s.cfg.tIecEoiPulse true [.rx .eoiPulsed] s
  | .reached => .next (s.push [.rx (.bit 0 0 false)])

/-- Step R4, one bit: the wait for CLK to rise, which for bit 7 begins with the detection window (42_jiffydos R601). -/
def rxBit (i : Nat) (rx : Byte) (eoi : Bool) (s : State) : Res :=
  if i = 7 ∧ jiffyArmed s then .next (s.tryWait .clk .high s.cfg.tJiffyDetect [.rx (.window rx eoi)])
  else .next (s.waitFor .clk .high 0 [.rx (.sample i rx eoi)])

/-- The end of the detection window, and `jiffy_detect(rx)` up to its pulse (42_jiffydos R603). -/
def rxWindow (rx : Byte) (eoi : Bool) (s : State) : Res :=
  let wait := s.waitFor .clk .high 0 [.rx (.sample 7 rx eoi)]
  match s.work.wait with
  | .atnAbort => failWith .atnPreempted s
  | .reached => .next wait
  | .timeout =>
      match jiffyLookup s rx with
      | none => .next wait
      | some j => pulseLow .data s.cfg.tJiffyDetectPulse true [.rx (.detected j rx eoi)] s

/-- The end of `jiffy_detect(rx)` (42_jiffydos R603). -/
def rxDetected (j : Nat) (rx : Byte) (eoi : Bool) (s : State) : Res :=
  .next ((s.setFlag j .jiffyDetected).waitFor .clk .high 0 [.rx (.sample 7 rx eoi)])

/-- Step R4: the sample of bit `i` (R533). -/
def rxSample (i : Nat) (rx : Byte) (eoi : Bool) (s : State) : Res :=
  let rx := putBit rx i (readLine s .data == .high)
  .next (s.waitFor .clk .low 0 [.rx (if i = 7 then .byte rx eoi else .bit (i + 1) rx eoi)])

/-- Steps R6 and R7: the acknowledge, the delivery, and the probe after a new secondary. -/
def rxAck (rx : Byte) (eoi newSec : Bool) (s : State) : Res :=
  let s := setData true s
  if !s.fl.atnActive then withCurrent s fun k => deliver k rx eoi s
  else if s.addr.secValid ∧ rx = s.addr.secondary ∧ newSec ∧ rx ≠ 0x00 then probeIfArmed s.sel.current s
  else .next s

/-- Step R5: under ATN the byte is captured, the primary and the secondary at a decode point of their own; a third or
later byte is only acknowledged or not (R520). -/
def rxByte (rx : Byte) (eoi : Bool) (s : State) : Res :=
  if s.fl.atnActive then
    if s.addr.primary = 0x00 then .next (s.push [.decode (.primary rx)])
    else if !s.addr.secValid then .next (s.push [.decode (.secondary rx)])
    else if addressed s then rxAck rx eoi false s
    else .next s
  else rxAck rx eoi false s

/-- The statements of the standard receive. -/
def runRx (p : RxPos) (s : State) : Res :=
  match p with
  | .clkFall => rxClkFall s
  | .eoiTest => rxEoiTest s
  | .eoiPulsed => .next (s.waitFor .clk .low 0 [.rx (.bit 0 0 true)])
  | .bit i rx eoi => rxBit i rx eoi s
  | .window rx eoi => rxWindow rx eoi s
  | .detected j rx eoi => rxDetected j rx eoi s
  | .sample i rx eoi => rxSample i rx eoi s
  | .byte rx eoi => rxByte rx eoi s
  | .ack rx eoi newSec => rxAck rx eoi newSec s
  | .probe k => probeEnd k s

/-! ## Capture under ATN (41_iec_core R520) -/

/-- The first non-zero byte becomes `primary`. -/
def setPrimary (rx : Byte) (s : State) : State := { s with addr := { s.addr with primary := rx } }

/-- `capture(rx)` of a LISTEN or TALK: a device of the table is selected and told (R520, R523); a primary that
matches none is not acknowledged (R520, R522), although 60_exceptions R1002 speaks of an acknowledge (DEDUCED, assumption
log 33). -/
def captureAddress (rx : Byte) (a : BitVec 5) (s : State) : Res :=
  let s := setPrimary rx s
  match find s a with
  | none => .next s
  | some k =>
      .next ({ s with sel := { s.sel with current := some k } }.call (.primaryAddress k rx) [.rx (.ack rx false false)])

/-- `capture(rx)` of the byte after the primary (R520, R523). -/
def captureSecondary (rx : Byte) (s : State) : Res :=
  let s := { s with addr := { s.addr with secondary := rx, secValid := true } }
  if !addressed s then .next s
  else match s.sel.current with
    | some k => .next (s.call (.secondaryAddress k rx) [.rx (.ack rx false true)])
    | none => rxAck rx false true s

/-! ## Transmit (41_iec_core R540) -/

/-- `commit_tx(k)` (R548), up to `read()`. -/
def commitTx (k : Nat) (s : State) : Res := .next (s.call (.read k) [.tx .committed])

/-- The talk timing after a byte's acknowledge (R548). -/
def noteSent (s : State) : State := { s with talk := ⟨false, now s⟩ }

/-- `iec_transmit_byte(k, n)`, steps T1 and T2. -/
def iecTransmit (k n : Nat) (s : State) : Res :=
  let verify := readLine s .data == .high
  .next ((setClk false s).waitFor .data .high 0 [.tx (.ready k n verify)])

/-- Step T4. -/
def txSend (k n : Nat) (s : State) : Res :=
  if n = 0 then failWith .deviceRefused s else .next (s.call (.peek k) [.tx (.peeked k)])

/-- Step T3, the talker's EOI. -/
def txReady (k n : Nat) (verify : Bool) (s : State) : Res :=
  if n = 1 ∨ verify then
    .next (s.waitFor .data .low (if verify then 0 else s.cfg.tIecTxEoiLow) [.tx (.high k n)])
  else txSend k n s

/-- Step T5, one bit up to its CLK-low hold: a 1 releases DATA (R545). -/
def txBit (k : Nat) (b : Byte) (i : Nat) (s : State) : Res :=
  .next ((setData (!b.getLsbD i) (setClk true s)).hold s.cfg.tIecBitLow [.tx (.lowHeld k b i)])

/-- Step T5 between two bits, and step T6 after the last one. -/
def txNext (k : Nat) (b : Byte) (i : Nat) (s : State) : Res :=
  if i < 7 then txBit k b (i + 1) s
  else .next ((setData false (setClk true s)).waitFor .data .low s.cfg.tIecAck [.tx (.acked k)])

/-- The statements of the standard transmit. -/
def runTx (p : TxPos) (s : State) : Res :=
  match p with
  | .ready k n verify => txReady k n verify s
  | .high k n => .next (s.waitFor .data .high 0 [.tx (.send k n)])
  | .send k n => txSend k n s
  | .peeked k => txBit k s.work.answer.byte 0 s
  | .lowHeld k b i => .next ((setClk false s).hold s.cfg.tIecBitHigh [.tx (.highHeld k b i)])
  | .highHeld k b i => txNext k b i s
  | .acked k => commitTx k s
  | .committed => .next (noteSent s)

end Sys2Proof.Machine
end

