-- ==== Sys2Proof/Machine/Jiffy.lean ====
section
/-! DEFINITION. The JiffyDOS engine (42_jiffydos): byte receive, byte transmit, block transmit and its end. -/

namespace Sys2Proof.Machine

/-! ## Byte receive (42_jiffydos R604) -/

/-- `jiffy_receive_byte(k)`, J1 and J2. -/
def jiffyReceive (k : Nat) (s : State) : Res :=
  andThen (maskIrq s) fun s => .next ((setData false s).waitFor .clk .high 0 [.jiffy (.rxEdge k)])

/-- The level a bit is read as: `HIGH` is 1 unless the source is inverted (R604). -/
def readSource (s : State) (b : BitSource) : Bool := (readLine s b.line == .high) != b.inverted

/-- `rx` with the two bits of slot `i` (R604, J3). -/
def samplePair (s : State) (i : Nat) (rx : Byte) : Byte :=
  let pair := slotOf jiffyPairs i
  let src := slotOf s.cfg.jiffyRxMap i
  putBit (putBit rx pair.1 (readSource s src.first)) pair.2 (readSource s src.second)

/-- J3, one slot, and the wait for the next one or for J4. -/
def jiffyRxPair (k : Nat) (t0 : Micros) (i : Nat) (rx : Byte) (s : State) : Res :=
  let rx := samplePair s i rx
  if i < 3 then .next (s.waitHalf t0 (2 * slotOf s.cfg.jiffyRxT (i + 1)) [.jiffy (.rxPair k t0 (i + 1) rx)])
  else .next (s.waitHalf t0 (2 * s.cfg.jiffyRxEoiT) [.jiffy (.rxEoi k t0 rx)])

/-- J4 and J5: EOI is CLK still high, and the acknowledge (R605). -/
def jiffyRxEoi (k : Nat) (t0 : Micros) (rx : Byte) (s : State) : Res :=
  let eoi := readLine s .clk == .high
  .next ((setData true s).waitHalf t0 (2 * s.cfg.jiffyRxAckT) [.jiffy (.rxDone k rx eoi)])

/-! ## Byte transmit (42_jiffydos R606) -/

/-- JT1. -/
def jiffyTxStart (k : Nat) (st : TxStatus) (b : Byte) (s : State) : Res :=
  andThen (maskIrq s) fun s => .next ((setClk false s).waitFor .data .high 0 [.jiffy (.txEdge k st b)])

/-- `jiffy_transmit_byte(k, n)`: the status and the peeked byte. -/
def jiffyTransmit (k n : Nat) (s : State) : Res :=
  let st := jiffyStatusOf n
  if 0 < n then .next (s.call (.peek k) [.jiffy (.txPeeked k st)]) else jiffyTxStart k st 0x00 s

/-- JT2, one slot, and the wait for the next one or for JT3. -/
def jiffyTxPair (k : Nat) (st : TxStatus) (b : Byte) (t0 : Micros) (i : Nat) (s : State) : Res :=
  let s := setLines (jiffyTxLevels s.cfg i b) s
  if i < 3 then .next (s.waitHalf t0 (slotOf s.cfg.jiffyTxHalf (i + 1)) [.jiffy (.txPair k st b t0 (i + 1))])
  else .next (s.waitHalf t0 s.cfg.jiffyTxEndHalf [.jiffy (.txStatus k st)])

/-- JT3: the status levels and their hold. -/
def jiffyTxStatus (k : Nat) (st : TxStatus) (s : State) : Res :=
  let c := jiffyStatusCode s.cfg st
  .next ((setLines (c.clk, c.data) s).hold c.hold [.jiffy (.txHeld k st)])

/-- The end of the masked block: an error status was "nothing to send", another byte is consumed. -/
def jiffyTxAcked (k : Nat) (st : TxStatus) (s : State) : Res :=
  let s := unmaskIrq s
  if st = .error then failWith .deviceRefused s else commitTx k s

/-! ## Block mode (42_jiffydos R609, R610, R612) -/

/-- `jiffy_eoi_block(k)` (R610), up to its hold. -/
def jiffyEoiBlock (s : State) : Res :=
  andThen (maskIrq s) fun s => .next ((setClk false s).hold s.cfg.tJiffyBlkEoiPulse [.jiffy .eoiHeld])

/-- The end of `jiffy_eoi_block(k)`: the talk is complete. CLK stays driven low with `done` set, as the pseudocode of
42_jiffydos R610 has it, although the last sentence of 10_state R103 releases both lines whenever `done` is set
(DEDUCED, assumption log 29). -/
def jiffyEoiEnd (s : State) : Res :=
  let s := unmaskIrq (setClk true s)
  .next (noteSent { s with bus := { s.bus with done := true } })

/-- Byte `j` of a block of `m` (R609), JB1. -/
def jiffyBlockByte (m j : Nat) (s : State) : Res :=
  andThen (maskIrq s) fun s => .next (s.waitFor .data .high 0 [.jiffy (.blockHigh m j)])

/-- JB2, one slot, and the wait for the next one or for JB3. -/
def jiffyBlockPair (m j : Nat) (t0 : Micros) (i : Nat) (s : State) : Res :=
  match bufRead s j with
  | .error e => .fault e
  | .ok b =>
      let s := setLines (jiffyBlkLevels s.cfg i b) s
      if i < 3 then .next (s.waitHalf t0 (2 * slotOf s.cfg.jiffyBlkT (i + 1)) [.jiffy (.blockPair m j t0 (i + 1))])
      else .next (s.waitHalf t0 (2 * s.cfg.jiffyBlkEndT) [.jiffy (.blockEnd m j)])

/-- JB3, and after the last byte the end of the block. -/
def jiffyBlockEnd (m j : Nat) (s : State) : Res :=
  let s := unmaskIrq (setData false s)
  if j + 1 < m then jiffyBlockByte m (j + 1) s else .next (noteSent (setClk true s))

/-- `jiffy_block_step(k, n)` after `claim_buf()`'s flush (R612). -/
def jiffyBlockClaimed (k n : Nat) (s : State) : Res :=
  let s := dropCapture s
  if n = 0 then jiffyEoiBlock s else .next (s.call (.readInto k s.cfg.bufSize) [.jiffy .filled])

/-- `jiffy_block_step(k, n)` (R612). -/
def jiffyBlockStep (k n : Nat) (s : State) : Res :=
  flushThen (.jiffy (.claimed k n)) (jiffyBlockClaimed k n) s

/-- The device's bytes are in `buf`: a block, or its end. -/
def jiffyBlockFilled (s : State) : Res :=
  let bs := s.work.answer.bytes
  andThen (bufFill 0 bs s) fun s =>
    if bs.length = 0 then jiffyEoiBlock s else jiffyBlockByte bs.length 0 s

/-- The statements of the JiffyDOS engine. -/
def runJiffy (p : JiffyPos) (s : State) : Res :=
  match p with
  | .rxEdge k => .next (s.waitHalf (now s) (2 * s.cfg.jiffyRxT.s0) [.jiffy (.rxPair k (now s) 0 0)])
  | .rxPair k t0 i rx => jiffyRxPair k t0 i rx s
  | .rxEoi k t0 rx => jiffyRxEoi k t0 rx s
  | .rxDone k rx eoi => deliver k rx eoi (unmaskIrq s)
  | .txPeeked k st => jiffyTxStart k st s.work.answer.byte s
  | .txEdge k st b => .next (s.waitHalf (now s) s.cfg.jiffyTxHalf.s0 [.jiffy (.txPair k st b (now s) 0)])
  | .txPair k st b t0 i => jiffyTxPair k st b t0 i s
  | .txStatus k st => jiffyTxStatus k st s
  | .txHeld k st => .next ((setData false s).waitFor .data .low s.cfg.tIecAck [.jiffy (.txAcked k st)])
  | .txAcked k st => jiffyTxAcked k st s
  | .claimed k n => jiffyBlockClaimed k n s
  | .filled => jiffyBlockFilled s
  | .blockHigh m j => .next (s.waitFor .data .low 0 [.jiffy (.blockEdge m j)])
  | .blockEdge m j => .next (s.waitHalf (now s) (2 * s.cfg.jiffyBlkT.s0) [.jiffy (.blockPair m j (now s) 0)])
  | .blockPair m j t0 i => jiffyBlockPair m j t0 i s
  | .blockEnd m j => jiffyBlockEnd m j s
  | .eoiHeld => jiffyEoiEnd s

end Sys2Proof.Machine
end

