-- ==== Sys2Proof/Machine/Epyx.lean ====
section
/-! DEFINITION. The Epyx FastLoad engine (44_epyx): the write counter, the header, the two byte frames, the filename,
the load and the sector operations. -/

namespace Sys2Proof.Machine

/-- Epyx FastLoad acts for device `k` (44_epyx R800). -/
def epyxOn (s : State) (k : Nat) : Bool := s.cfg.featEpyx && s.flag k .epyxEnabled

/-- `epyx_reset()` (44_epyx R804); without `FEAT_EPYX` it changes no state (R800). -/
def epyxReset (s : State) : State :=
  if s.cfg.featEpyx then { s with epyx := { s.epyx with ctr := 0, ver := none } } else s

/-- The matched writes continue with `w` (44_epyx R802). -/
def epyxContinues (s : State) (k : Nat) (w : WriteMark) : Bool :=
  s.epyx.ctr == 1 && k == s.epyx.dev &&
    match s.epyx.ver with
    | some v => (signature s.cfg v).second == w
    | none => false

/-- `epyx_mw(k, c)` with the payload complete or not (44_epyx R802). -/
def epyxMw (k : Nat) (addr : BitVec 16) (len : Byte) (payload : List Byte) (s : State) : State :=
  if !epyxOn s k then epyxReset s
  else if payload.length < len.toNat then epyxReset s
  else
    let w : WriteMark := ⟨addr, len, sumBytes payload⟩
    if epyxContinues s k w then { s with epyx := { s.epyx with ctr := 2 } }
    else match versionStarting s.cfg w with
      | some v => { s with epyx := { s.epyx with ctr := 1, ver := some v, dev := k } }
      | none => epyxReset s

/-- The matched sequence ends with this execute (44_epyx R803). -/
def epyxEnds (s : State) (k : Nat) (addr : BitVec 16) : Bool :=
  s.epyx.ctr == 2 && k == s.epyx.dev &&
    match s.epyx.ver with
    | some v => addr == (signature s.cfg v).exec
    | none => false

/-- `epyx_me(k, c)` (44_epyx R803). -/
def epyxMe (k : Nat) (addr : BitVec 16) (s : State) : State :=
  if epyxOn s k && epyxEnds s k addr then epyxReset (s.setFlag k .epyxHeader) else epyxReset s

/-! ## The byte frames (44_epyx R806, R811) -/

/-- `epyx_receive_byte()`, and then `ps`, which read the byte from `work.byte` (R806). -/
def epyxReceive (ps : List Pos) (s : State) : Res :=
  andThen (maskIrq s) fun s =>
    let lvl := flipLevel (readLine s .clk)
    .next (s.waitFor .clk lvl 0 (.epyx (.rxBit 0 0x00 lvl) :: ps))

/-- The bit position of the i-th sample, `EPYX_RX_ORDER[i]` (R806). -/
def epyxRxPlace (c : Cfg) (i : Nat) : Nat := c.epyxRxOrder.getD i i

/-- One CLK toggle: DATA is sampled inverted (R806). -/
def epyxRxBit (i : Nat) (v : Byte) (lvl : Level) (s : State) : Res :=
  let v := putBit v (epyxRxPlace s.cfg i) (lineLow s .data)
  if i < 7 then .next (s.waitFor .clk (flipLevel lvl) 0 [.epyx (.rxBit (i + 1) v (flipLevel lvl))])
  else
    let s := unmaskIrq s
    .next { s with work := { s.work with byte := v } }

/-- `epyx_transmit_byte(b)`, and then `ps` (R811): the byte is sent inverted. -/
def epyxTransmit (b : Byte) (ps : List Pos) (s : State) : Res :=
  andThen (maskIrq s) fun s => .next (s.waitFor .data .high 0 (.epyx (.txEdge (b ^^^ 0xFF)) :: ps))

/-- One pair slot, and the wait for the next one or for the end of the pairs. -/
def epyxTxPair (v : Byte) (t0 : Micros) (i : Nat) (s : State) : Res :=
  let s := setLines (epyxTxLevels s.cfg i v) s
  if i < 3 then .next (s.waitHalf t0 (2 * slotOf s.cfg.epyxTxT (i + 1)) [.epyx (.txPair v t0 (i + 1))])
  else .next (s.waitHalf t0 (2 * s.cfg.epyxTxEndT) [.epyx (.txClk t0)])

/-! ## Header (44_epyx R805) -/

/-- `epyx_header(k)`, up to its first wait. -/
def epyxHeader (k : Nat) (s : State) : Res :=
  .next ((setClk true (s.clearFlag k .epyxHeader)).waitFor .data .low 0 [.epyx (.headerReady k)])

/-- One of the 256 routine bytes is summed; the sum is then decoded (R807, R808). -/
def epyxHeaderByte (k i : Nat) (sum : Byte) (s : State) : Res :=
  let sum := sum + s.work.byte
  if i < 255 then epyxReceive [.epyx (.headerByte k (i + 1) sum)] s
  else .next (s.push [.decode (.sum k sum)])

/-- `epyx_classify(k, sum)` of a sector routine (R808). -/
def epyxSector (k : Nat) (sum : Byte) (s : State) : Res :=
  if s.cfg.sectorOps then .next ({ s with epyx := { s.epyx with sum := sum } }.setFlag k .epyxSectorOp)
  else failWith .checksumMismatch s

/-! ## File load (44_epyx R809, R810, R812, R813) -/

/-- `epyx_filename(k)`, up to the length byte (R809). -/
def epyxFilename (k : Nat) (s : State) : Res := epyxReceive [.epyx (.nameLen k)] s

/-- `epyx_open(k, len)` (R810). -/
def epyxOpen (k len : Nat) (s : State) : Res :=
  match memBytes s.cfg.bufSize s.buf 0 len with
  | .error e => .fault e
  | .ok name =>
      .next (s.push (.yield (.call (.listen k 0xF0)) :: heldWrites k true name ++
        [.yield (.call (.unlisten k)), .yield (.call (.talk k 0x60)), .epyx (.opened k)]))

/-- The name byte `i` comes next, or the name is complete (R809). -/
def epyxName (k : Nat) (len : Byte) (i : Nat) (s : State) : Res :=
  if i < len.toNat then epyxReceive [.epyx (.nameByte k len i)] s
  else if s.cfg.bufSize < len.toNat then .next (releaseBoth s)
  else epyxOpen k len.toNat s

/-- Name byte `i` is stored at its place from the end; a name longer than `buf` is dropped (R809). -/
def epyxNameByte (k : Nat) (len : Byte) (i : Nat) (s : State) : Res :=
  if len.toNat ≤ s.cfg.bufSize then
    andThen (bufWrite (len.toNat - 1 - i) s.work.byte s) (epyxName k len (i + 1))
  else epyxName k len (i + 1) s

/-- The filename after its length byte: `claim_buf()`, and the name (R809). -/
def epyxNameStart (k : Nat) (len : Byte) (s : State) : Res :=
  flushThen (.epyx (.nameClaimed k len)) (fun s => epyxName k len 0 (dropCapture s)) s

/-- `epyx_load_step(k)` after `claim_buf()`'s flush (R812). -/
def epyxLoadClaimed (k : Nat) (s : State) : Res :=
  .next ((dropCapture s).call (.readInto k s.cfg.epyxBlockMax) [.epyx (.loadRead k)])

/-- `epyx_load_step(k)` (R812). -/
def epyxLoadStep (k : Nat) (s : State) : Res := flushThen (.epyx (.loadClaimed k)) (epyxLoadClaimed k) s

/-- The block's length byte is sent first; a failure from here on closes the load (R812). -/
def epyxLoadRead (k : Nat) (s : State) : Res :=
  let bs := s.work.answer.bytes
  andThen (bufFill 0 bs s) fun s =>
    epyxTransmit (BitVec.ofNat 8 bs.length) [.epyx (.loadByte k bs.length 0), .epyx (.guarded k)] s

/-- `epyx_finish(k)`, and then `ps` (R813). -/
def epyxFinish (k : Nat) (ps : List Pos) (s : State) : Res :=
  .next ((s.clearFlag k .epyxLoad).push
    (.yield (.call (.untalk k)) :: .yield (.call (.listen k 0xE0)) :: .yield (.call (.unlisten k)) ::
      .epyx .closed :: ps))

/-- Block byte `i` is sent, or the block is complete; a block of length 0 ends the load (R812). -/
def epyxLoadByte (k n i : Nat) (s : State) : Res :=
  if i < n then
    match bufRead s i with
    | .error e => .fault e
    | .ok b => epyxTransmit b [.epyx (.loadByte k n (i + 1))] s
  else if n = 0 then epyxFinish k [] s
  else .next s

/-! ## Sector operations (44_epyx R814 to R817) -/

/-- `heartbeat(k)` after `i` iterations (R815), and the sector step's first byte after it (R814). -/
def epyxBeat (k i : Nat) (s : State) : Res :=
  if i < s.cfg.heartbeatMax then
    if readLine s .data = .high then epyxReceive [.epyx (.sectorTrack k)] (setClk false s)
    else .next ((setClk true s).waitHalf (now s) s.cfg.tHeartbeatPeriod [.epyx (.beatLow k i)])
  else failWith .timeoutMissedEdge (s.clearFlag k .epyxSectorOp)

/-- Sector byte `i` is sent, or the sector is complete; of a device without the call every byte sent is a free value, and
the operation does not fail (R816; DEDUCED, assumption log 22). -/
def sectorSend (k i : Nat) (s : State) : Res :=
  if i < 256 then
    if (entryAt s.dev k).handle.readsSectors then
      match bufRead s i with
      | .error e => .fault e
      | .ok b => epyxTransmit b [.epyx (.readSend k (i + 1))] s
    else
      epyxTransmit (Config.freeByte s.env.draws) [.epyx (.readSend k (i + 1))]
        { s with env := { s.env with draws := s.env.draws + 1 } }
  else .next s

/-- `epyx_read_sector(k, t, s)` after `claim_buf()`'s flush: a device without the call leaves `buf` unwritten,
and the operation goes on (R816; DEDUCED, assumption log 22: decision D36 and 93_implementation_defined §2 say that it
fails). -/
def sectorReadClaimed (k : Nat) (t sec : Byte) (s : State) : Res :=
  let s := dropCapture s
  if (entryAt s.dev k).handle.readsSectors then .next (s.call (.readSector k t sec) [.epyx (.readFilled k)])
  else sectorSend k 0 s

/-- `epyx_write_sector(k, t, s)` after `claim_buf()`'s flush (R817). -/
def sectorWriteClaimed (k : Nat) (t sec : Byte) (s : State) : Res :=
  epyxReceive [.epyx (.writeByte k t sec 0)] (dropCapture s)

/-- The operation a sector command asks for (R814). -/
def sectorAct (k : Nat) (t sec c : Byte) (s : State) : Res :=
  match sectorOp (sectorFormat s.cfg s.epyx.sum) t sec c with
  | .read => flushThen (.epyx (.readClaimed k t sec)) (sectorReadClaimed k t sec) s
  | .write => flushThen (.epyx (.writeClaimed k t sec)) (sectorWriteClaimed k t sec) s
  | .finish => .next (releaseBoth (s.clearFlag k .epyxSectorOp))

/-- The command byte is received where the format has one (R814). -/
def sectorCommand (k : Nat) (t : Byte) (s : State) : Res :=
  let sec := s.work.byte
  if (sectorFormat s.cfg s.epyx.sum).hasCommand then epyxReceive [.epyx (.sectorCommand k t sec)] s
  else sectorAct k t sec 0x00 s

/-- Sector byte `i` is stored; the last one hands the sector to the device; a device without the call ignores the data, and
the operation does not fail (R817; DEDUCED, assumption log 22: decision D36 and 93_implementation_defined §2 say that it
fails). -/
def sectorWriteByte (k : Nat) (t sec : Byte) (i : Nat) (s : State) : Res :=
  andThen (bufWrite i s.work.byte s) fun s =>
    if i < 255 then epyxReceive [.epyx (.writeByte k t sec (i + 1))] s
    else if (entryAt s.dev k).handle.writesSectors then
      match memBytes s.cfg.bufSize s.buf 0 256 with
      | .error e => .fault e
      | .ok bs => .next (s.call (.writeSector k t sec bs) [])
    else .next s

/-- `epyx_pending()` (45_scheduler R904). A header flag that step S2 has set in this tick is served as R904 says, in
this tick (DEDUCED, assumption log 34). -/
def epyxPending (s : State) : Res :=
  match leastWith s [.epyxHeader, .epyxLoad, .epyxSectorOp] with
  | none => .next s
  | some k =>
      if s.flag k .epyxHeader then
        if readLine s .data = .high then epyxHeader k s else .next s
      else if s.flag k .epyxLoad then epyxLoadStep k s
      else epyxBeat k 0 s

/-- The statements of the Epyx engine. -/
def runEpyx (p : EpyxPos) (s : State) : Res :=
  match p with
  | .headerReady k => epyxReceive [.epyx (.headerByte k 0 0)] (setClk false s)
  | .headerByte k i sum => epyxHeaderByte k i sum s
  | .rxBit i v lvl => epyxRxBit i v lvl s
  | .txEdge v => .next (s.waitHalf (now s) (2 * s.cfg.epyxTxT.s0) [.epyx (.txPair v (now s) 0)])
  | .txPair v t0 i => epyxTxPair v t0 i s
  | .txClk t0 => .next ((setClk false s).waitHalf t0 (2 * s.cfg.epyxTxRelT) [.epyx .txData])
  | .txData => .next ((setData false s).waitFor .data .low 0 [.epyx .txTaken])
  | .txTaken => .next (unmaskIrq s)
  | .nameLen k => .next (s.push [.decode (.header k s.work.byte)])
  | .nameClaimed k len => epyxName k len 0 (dropCapture s)
  | .nameByte k len i => epyxNameByte k len i s
  | .opened k => .next (s.setFlag k .epyxLoad)
  | .loadClaimed k => epyxLoadClaimed k s
  | .loadRead k => epyxLoadRead k s
  | .loadByte k n i => epyxLoadByte k n i s
  | .guarded _ => .next s
  | .abort k kind => epyxFinish k [.raise kind] s
  | .closed => .next (releaseBoth s)
  | .beat k i => epyxBeat k i s
  | .beatLow k i => .next ((setClk false s).waitHalf (now s) s.cfg.tHeartbeatPeriod [.epyx (.beat k (i + 1))])
  | .sectorTrack k => epyxReceive [.epyx (.sectorSector k s.work.byte)] s
  | .sectorSector k t => sectorCommand k t s
  | .sectorCommand k t sec => sectorAct k t sec s.work.byte s
  | .readClaimed k t sec => sectorReadClaimed k t sec s
  | .readFilled k => andThen (bufFill 0 s.work.answer.bytes s) (sectorSend k 0)
  | .readSend k i => sectorSend k i s
  | .writeClaimed k t sec => sectorWriteClaimed k t sec s
  | .writeByte k t sec i => sectorWriteByte k t sec i s

end Sys2Proof.Machine
end

