-- ==== Sys2Proof/Machine/Roles.lean ====
section
/-! DEFINITION. The role actions of an ATN rise (41_iec_core R512 to R519). -/

namespace Sys2Proof.Machine

/-- `mode <- m`. -/
def setMode (m : Mode) (s : State) : State := { s with bus := { s.bus with mode := m } }

/-- `current_device <- none ; mode <- IDLE ; release(CLK) ; release(DATA)`: the end of R515 to R518. -/
def goIdle (s : State) : State :=
  releaseBoth { s with bus := { s.bus with mode := .idle }, sel := { s.sel with current := none } }

/-! ## LISTEN (41_iec_core R513) -/

/-- The registers of a new listen role, and `listen(sec)`. -/
def listenFree (k : Nat) (sec : Byte) (s : State) : Res :=
  .next ({ s with
    sel := { s.sel with listener := some k, listenerSec := sec }
    cmd := if sec = 0x6F then { s.cmd with len := 0, overflow := false } else s.cmd
    dol := { s.dol with preArm := sec == 0x61 && s.flag k .dolphinDetected } }.call
      (.listen k sec) [.role .listenDone])

/-- The previous listener, if it is another device, is told. -/
def listenFlushed (k : Nat) (sec : Byte) (s : State) : Res :=
  match s.sel.listener with
  | some j => if j = k then listenFree k sec s else .next (s.call (.unlisten j) [.role (.listenFree k sec)])
  | none => listenFree k sec s

/-- `do_listen(k, sec)` (R513). -/
def doListen (k : Nat) (sec : Byte) (s : State) : Res :=
  flushBeforeCall k true sec (.role (.listenFlushed k sec)) (listenFlushed k sec) s

/-! ## TALK (41_iec_core R514, R519) -/

/-- JiffyDOS block mode: a talk on 0x61 becomes one on 0x60 (42_jiffydos R608). -/
def blockEntry (k : Nat) (sec : Byte) (s : State) : Bool := s.flag k .jiffyDetected && sec == 0x61

/-- The registers of a new talk role, and `talk(sec)`. -/
def talkFree (k : Nat) (sec : Byte) (s : State) : Res :=
  let block := blockEntry k sec s
  let sec := if block then 0x60 else sec
  let s := if block then s.setFlag k .jiffyBlock else s
  let s := if s.flag k .dolphinDetected then dropCapture s else s
  .next ({ s with
    sel := { s.sel with talker := some k, talkerSec := sec }
    talk := { s.talk with txFirst := true } }.call (.talk k sec) [.role .talkCalled])

/-- The previous talker, if it is another device, is told. -/
def talkFlushed (k : Nat) (sec : Byte) (s : State) : Res :=
  match s.sel.talker with
  | some j => if j = k then talkFree k sec s else .next (s.call (.untalk j) [.role (.talkFree k sec)])
  | none => talkFree k sec s

/-- `do_talk(k, sec)` (R514). -/
def doTalk (k : Nat) (sec : Byte) (s : State) : Res :=
  flushBeforeCall k false sec (.role (.talkFlushed k sec)) (talkFlushed k sec) s

/-- `mode <- TALKING`, and the wait of `role_reversal()` (R519). -/
def talkCalled (s : State) : State := (setMode .talking s).waitFor .clk .high 0 [.role .reverse]

/-! ## UNLISTEN, UNTALK, and no role (41_iec_core R515 to R518) -/

/-- `do_unlisten()` after the device call: with no listener, all of it (R515). -/
def unlistenEnd (s : State) : State := goIdle { s with dol := { s.dol with preArm := false } }

/-- `do_unlisten()` (R515): a captured channel-15 command is decoded and run first. UNLISTEN is no flush point
(43_dolphindos R705), although 92_eei D27 lists it (DEDUCED, assumption log 31). -/
def doUnlisten (s : State) : Res :=
  match s.sel.listener with
  | none => .next (unlistenEnd s)
  | some k =>
      if s.sel.listenerSec = 0x6F ∧ 0 < s.cmd.len then
        .next (s.push [.decode (.cmd15 k), .role (.unlisten k)])
      else .next (s.call (.unlisten k) [.role .unlistenDone])

/-- `do_untalk()` (R516). -/
def doUntalk (s : State) : Res :=
  match s.sel.talker with
  | none => .next (goIdle s)
  | some k => .next (s.call (.untalk k) [.role .untalkDone])

/-- `not_for_us()` (R517). -/
def notForUs (s : State) : Res := .next (goIdle s)

/-- `ignore_close15()` (R518). -/
def ignoreClose15 (s : State) : Res := .next (goIdle s)

/-- The `case` of `atn_rise()`, with the secondary it passes on (R512). -/
def riseRole (sec : Byte) (s : State) : Res :=
  match roleOf s.addr.primary, s.sel.current with
  | .listen, some k => doListen k sec s
  | .talk, some k => doTalk k sec s
  | .unlisten, _ => doUnlisten s
  | .untalk, _ => doUntalk s
  | .listen, none => notForUs s
  | .talk, none => notForUs s
  | .none, _ => notForUs s

/-- The statements of the role actions. -/
def runRole (p : RolePos) (s : State) : Res :=
  match p with
  | .listenFlushed k sec => listenFlushed k sec s
  | .listenFree k sec => listenFree k sec s
  | .listenDone => .next (setMode .listening s)
  | .talkFlushed k sec => talkFlushed k sec s
  | .talkFree k sec => talkFree k sec s
  | .talkCalled => .next (talkCalled s)
  | .reverse => .next (setData false (setClk true s))
  | .unlisten k => .next (s.call (.unlisten k) [.role .unlistenDone])
  | .unlistenDone =>
      .next (unlistenEnd { s with sel := { s.sel with listener := none, listenerSec := 0x00 } })
  | .untalkDone => .next (goIdle { s with sel := { s.sel with talker := none, talkerSec := 0x00 } })

end Sys2Proof.Machine
end

