-- ==== Sys2Proof/Machine/Tick.lean ====
section
/-! DEFINITION. `tick()` (45_scheduler R900 to R914) and the statements of construction and `begin()` that follow a
device call (41_iec_core R500, 70_reset R1101). -/

namespace Sys2Proof.Machine

/-- `reset_step()` (45_scheduler R901): only the falling edge resets. -/
def resetStep (s : State) : State :=
  if s.cfg.hasResetPin then
    let low := lineLow s .reset
    let edge := low && !s.fl.resetSeenPrev
    let s := { s with fl := { s.fl with resetSeenPrev := low } }
    if edge then resetAll s else s
  else s

/-- Step S3 (45_scheduler R903). -/
def stepDolphin (s : State) : Res :=
  if s.cfg.featDolphin ∧ s.cfg.hasParallel ∧ s.bus.mode = .idle then dolphinPending s else .next s

/-- Step S4 (45_scheduler R904). -/
def stepEpyx (s : State) : Res :=
  if s.cfg.featEpyx ∧ s.bus.mode = .idle then epyxPending s else .next s

/-! ## Listen step (45_scheduler R905 to R907) -/

/-- `receive_dispatch()` (R907). -/
def receiveDispatch (s : State) : Res :=
  if s.bus.mode = .underAtn then
    if readLine s .clk = .high then iecReceive s else .next s
  else withCurrent s fun k =>
    if s.flag k .jiffyDetected then jiffyReceive k s
    else if readLine s .clk ≠ .high then .next s
    else if s.flag k .dolphinDetected then dolReceive k s
    else iecReceive s

/-- `in_tick <- b`. -/
def setInTick (b : Bool) (s : State) : State := { s with fl := { s.fl with inTick := b } }

/-- `listen_step()`, up to `can_write()` (R906). -/
def listenStep (s : State) : Res :=
  if (s.bus.mode = .underAtn ∨ s.bus.mode = .listening) ∧ s.bus.done = false then
    if s.bus.mode = .listening then
      withCurrent s fun k => .next ((setInTick false (override true s)).call (.canWrite k) [.tick .canWrite])
    else receiveDispatch s
  else .next s

/-- `listen_step()` after its re-poll of ATN, with the device's answer `w` (R906). -/
def listenAnswer (w : BitVec 8) (s : State) : Res :=
  if s.bus.mode ≠ .listening then .next s
  else
    let s := override false s
    if w.msb then .next s
    else if w = 0 then failWith .deviceRefused s
    else receiveDispatch s

/-! ## Talk step (45_scheduler R908 to R910) -/

/-- `talk_step()`, up to `can_read()` (R909). -/
def talkStep (s : State) : Res :=
  if s.bus.mode = .talking ∧ s.bus.done = false then
    withCurrent s fun k => .next ((setInTick false (override true s)).call (.canRead k) [.tick (.canRead k)])
  else .next s

/-- `transmit_dispatch(k, n)` after the gap (R910). -/
def transmitNow (k n : Nat) (s : State) : Res :=
  if s.flag k .jiffyBlock then jiffyBlockStep k n s
  else if s.flag k .jiffyDetected then jiffyTransmit k n s
  else if s.flag k .dolphinDetected then dolTransmit k n s
  else iecTransmit k n s

/-- `transmit_dispatch(k, n)` with `talk_gap()` (R910, 41_iec_core R547). The gap is over at a drawn place of its band
(40_timing R412); the draw is that of the last device call. -/
def transmitDispatch (k n : Nat) (s : State) : Res :=
  let e := elapsed s s.talk.lastTxTime
  if s.talk.txFirst = false ∧ timeUp s.cfg s.work.answer e (2 * s.cfg.tIecTalkGap) = false then
    .next (s.hold (s.cfg.tIecTalkGap - e) [.tick (.transmit k n)])
  else transmitNow k n s

/-- `talk_step()` after its re-poll of ATN, with the device's answer `n` (R909). -/
def talkAnswer (k : Nat) (n : BitVec 8) (s : State) : Res :=
  if s.bus.mode ≠ .talking then .next s
  else
    let s := override false s
    if n.msb then .next s else transmitDispatch k n.toNat s

/-! ## The tick -/

/-- The end of `tick()` after `post_poll()` (R914). A tick does not return masked (10_state R113). -/
def tickReturn (s : State) : Res :=
  if s.fl.irqMasked then .fault .maskLeak else .next (setInTick false s)

/-- The end of the tick's body, and `post_poll()` up to its `atn_request()` (R900, R914). The body does not end masked
(10_state R113). -/
def tickFinish (s : State) : Res :=
  if s.fl.irqMasked then .fault .maskLeak
  else
    let s := setInTick false s
    if atnMismatch s then .next (atnRequest ((setInTick true s).push [.tick .posted])) else .next s

/-- The steps of `tick()` (R900). Each step's successor is on the sequencer before the step runs, which is where a
failure of the step goes on (R915). -/
def runTick (p : TickPos) (s : State) : Res :=
  match p with
  | .s1 => .next (resetStep ((setInTick true s).push [.tick .s2]))
  | .s2 => .next (atnRequest (s.push [.tick .s3]))
  | .s3 => stepDolphin (s.push [.tick .s4])
  | .s4 => stepEpyx (s.push [.tick .s5])
  | .s5 => listenStep (s.push [.tick .s6])
  | .s6 => talkStep (s.push [.tick .s7])
  | .s7 => .next (atnRequest (s.push [.tick .s8]))
  | .s8 => .next (s.push ((validIndices s).map (fun k => .yield (.call (.task k))) ++ [.tick .finish]))
  | .finish => tickFinish s
  | .posted => tickReturn s
  | .canWrite => .next (atnRequest ((setInTick true s).push [.tick (.listen s.work.answer.count)]))
  | .listen w => listenAnswer w s
  | .canRead k => .next (atnRequest ((setInTick true s).push [.tick (.talk k s.work.answer.count)]))
  | .talk k n => talkAnswer k n s
  | .transmit k n => transmitNow k n s

/-! ## Construction and `begin()` -/

/-- `add_device(h, cfg)` after `address()`: a refusal is a result and changes nothing (41_iec_core R500, R501). -/
def addDevice (h : Handle) (flags : BitVec 12) (s : State) : State :=
  let a := s.work.answer.addr
  if a = 31 ∨ s.dev.any (fun e => e.valid && e.address == a) ∨ s.cfg.maxDevices ≤ s.dev.length then s
  else
    let f := flags &&& persistentMask &&& wiredMask s.cfg
    { s with dev := s.dev ++ [⟨true, a, f, h, f⟩] }

/-- `begin()` after the devices' calls: the ISR is attached through the engine's registry slot, and the engine is ready
(70_reset R1101). -/
def attachIsr (s : State) : State :=
  { s with
    env := { s.env with attached := s.cfg.hasAtnIrq && s.registry.any fun r => r.engine == s.engine }
    fl := { s.fl with atnActive := false }
    bus := { s.bus with mode := .idle }
    life := .begun }

/-- The statements of construction and `begin()`. -/
def runBoot (p : BootPos) (s : State) : Res :=
  match p with
  | .added h flags => .next (addDevice h flags s)
  | .attach => .next (attachIsr s)

/-! ## Every statement -/

/-- One statement, at the head of the sequencer and already stepped past (10_state R105, R106). A yield point and a
decode point are no statements of this kind: the engine waits at the one, and `step` decodes at the other. -/
def runPos (p : Pos) (s : State) : Res :=
  match p with
  | .decode _ => .next s
  | .yield _ => .next s
  | .boot p => runBoot p s
  | .tick p => runTick p s
  | .role p => runRole p s
  | .rx p => runRx p s
  | .tx p => runTx p s
  | .jiffy p => runJiffy p s
  | .dol p => runDol p s
  | .epyx p => runEpyx p s
  | .pulseEnd l strict =>
      andThen (driveLine l false s) fun s => if strict then settle s.work.wait s else .next s
  | .raise kind => failWith kind s

end Sys2Proof.Machine
end

