-- ==== Sys2Proof/Machine/Agents.lean ====
section
/-! DEFINITION. What can happen at a yield point (00_scope R6, 10_state R106): a move of an agent outside the engine,
one iteration of the engine's wait, the return of a device call, or a call of the main loop. -/

namespace Sys2Proof.Machine

/-! ## The agents outside the engine -/

/-- The outside agents drive their lines. A falling edge of ATN raises the interrupt of the attached ISR: while masked it
is latched in `irq_pending`, and merged with every edge not delivered yet (60_exceptions R1008, 10_state R114); else the
platform holds it until it delivers it (R1013). -/
def driveLines (d : Drives) (s : State) : State :=
  let fell := d.hostAtn && !s.env.drives.hostAtn && s.env.attached
  if fell then
    if s.fl.irqMasked then atnIsr { s with env := { s.env with drives := d, edge := false } }
    else { s with env := { s.env with drives := d, edge := true } }
  else { s with env := { s.env with drives := d } }

/-- How far `micros()` can advance at a yield point before the engine acts: a timed wait ends inside its band (40_timing
R412, R413, 92_eei D4). -/
def clockRoom (y : Yield) (s : State) : Option Nat :=
  match y with
  | .between => none
  | .call _ => none
  | .waitFor _ _ t start _ => if t = 0 then none else some (bandEnd s.cfg (2 * t) - elapsed s start)
  | .waitUs t start _ => some (bandEnd s.cfg (2 * t) - elapsed s start)
  | .waitUntil half t0 => some (bandEnd s.cfg half - elapsed s t0)
  | .waitHr _ t start _ _ => if t = 0 then none else some (bandEnd s.cfg (2 * t) - elapsed s start)

/-- What is left of an advance by `dt`. -/
def clockStep (y : Yield) (dt : Micros) (s : State) : Micros :=
  match clockRoom y s with
  | none => dt
  | some room => BitVec.ofNat 32 (min dt.toNat room)

/-- `micros()` advances (40_timing R414). -/
def advanceClock (dt : Micros) (s : State) : State :=
  { s with env := { s.env with micros := s.env.micros + dt } }

/-- The platform delivers a latched edge of ATN pin `pin` to the engine that the registry names (45_scheduler R912,
10_state R160); to another engine, it changes nothing here. -/
def deliverInterrupt (pin : Nat) (s : State) : State :=
  if dispatchedHere s pin && s.env.attached && s.env.edge then atnIsr { s with env := { s.env with edge := false } }
  else s

/-! ## The engine's waits (40_timing R408, R410, R413, R418) -/

/-- One iteration of a wait at the head of the sequencer, by its three tests in their order; `stay` is the state where
none holds. -/
def pollWith (strict reached timeout : Bool) (stay s : State) : Res :=
  if atnMismatch s then finishWait strict .atnAbort s.pop
  else if reached then finishWait strict .reached s.pop
  else if timeout then finishWait strict .timeout s.pop
  else .next stay

/-- One iteration of `wait_for` (R408). -/
def pollLine (a : Answer) (l : Line) (lvl : Level) (t : Nat) (start : Micros) (strict : Bool) (s : State) : Res :=
  pollWith strict (readLine s l == lvl) (t != 0 && timeUp s.cfg a (elapsed s start) (2 * t)) s s

/-- One iteration of `wait_us` (R410): it has no timeout. -/
def pollTime (a : Answer) (t : Nat) (start : Micros) (strict : Bool) (s : State) : Res :=
  pollWith strict (t == 0 || timeUp s.cfg a (elapsed s start) (2 * t)) false s s

/-- One iteration of `wait_until(t0 + d)` (R413). -/
def pollUntil (a : Answer) (half : Nat) (t0 : Micros) (s : State) : Res :=
  pollWith true (timeUp s.cfg a (elapsed s t0) half) false s s

/-- One iteration of `wait_hr_fall` (R418): the level seen now is the next iteration's `prev`. -/
def pollHr (a : Answer) (edge : Level) (t : Nat) (start : Micros) (prev : Level) (strict : Bool) (s : State) : Res :=
  let cur := readLine s .hr
  pollWith strict (prev != edge && cur == edge) (t != 0 && timeUp s.cfg a (elapsed s start) (2 * t))
    { s with seq := .yield (.waitHr edge t start cur strict) :: s.seq.tail } s

/-! ## Device calls (20_memory R212) -/

/-- The answer is inside the call's contract (R212). -/
def withinContract (c : DevCall) (a : Answer) : Bool :=
  match c with
  | .readInto _ cap => decide (a.bytes.length ≤ cap)
  | .readSector _ _ _ => a.bytes.length == 256
  | .writeBytes _ bs _ => decide (a.taken ≤ bs.length)
  | _ => true

/-- A device call returns. -/
def returnCall (c : DevCall) (a : Answer) (s : State) : Res :=
  if withinContract c a then .next { s.pop with work := { s.work with answer := a } }
  else .fault .deviceContract

/-! ## The main loop (70_reset R1103) -/

/-- The main loop has control: the sequencer is `BETWEEN_TICKS`. -/
def between (s : State) : Bool :=
  match s.seq with
  | [] => true
  | .yield .between :: _ => true
  | _ => false

/-- `construct(pins, cfg)` (70_reset R1100). The engine of this state is the first one constructed; another instance
only takes a registry slot here, since its state is its own (60_exceptions R1018). -/
def hostConstruct (cfg : Cfg) (pin : Nat) (s : State) : Res :=
  let slots := s.registry ++ [⟨s.registry.length, pin⟩]
  if s.life = .unbuilt then
    if cfg.maxEngines ≤ s.registry.length then .refused .thirdEngine
    else if !cfgOk cfg then .refused .badConfig
    else .next (State.constructed cfg s.registry.length slots { s.env with attached := false, edge := false })
  else
    if s.cfg.maxEngines ≤ s.registry.length then .refused .thirdEngine
    else if !cfgOk cfg then .refused .badConfig
    else .next { s with registry := slots }

/-- `add_device(h, cfg)` up to `address()` (41_iec_core R500); the table is fixed after `begin()` (R504, 70_reset
R1112). -/
def hostAdd (h : Handle) (flags : BitVec 12) (s : State) : Res :=
  if s.life = .begun then .refused .addAfterBegin
  else if s.life = .constructed ∧ between s then .next (s.call (.address h) [.boot (.added h flags)])
  else .refused .notConstructed

/-- `begin()` up to the devices' calls (70_reset R1101). -/
def hostBegin (s : State) : Res :=
  if s.life = .begun then .refused .secondBegin
  else if s.life = .constructed ∧ between s then
    let s := releaseBoth s
    let s := if s.cfg.hasParallel then setHt false (parInput s) else s
    let s := override false s
    .next (s.push ((validIndices s).map (fun k => .yield (.call (.begin k))) ++ [.boot .attach]))
  else .refused .notConstructed

/-- `tick()` (45_scheduler R900): after `begin()`, and not from inside itself (70_reset R1103, R1113). -/
def hostTick (s : State) : Res :=
  if s.life ≠ .begun then .refused .tickBeforeBegin
  else if between s then .next (s.push [.tick .s1])
  else .refused .tickInTick

/-- A call of the main loop. -/
def hostCall (c : HostCall) (s : State) : Res :=
  match c with
  | .construct cfg pin => hostConstruct cfg pin s
  | .addDevice h flags => hostAdd h flags s
  | .begin => hostBegin s
  | .tick => hostTick s

/-! ## One move -/

/-- The engine's own move at a yield point; between ticks the engine does nothing. -/
def engineMove (y : Yield) (a : Answer) (s : State) : Res :=
  match y with
  | .between => .next s
  | .call c => returnCall c a s
  | .waitFor l lvl t start strict => pollLine a l lvl t start strict s
  | .waitUs t start strict => pollTime a t start strict s
  | .waitUntil half t0 => pollUntil a half t0 s
  | .waitHr edge t start prev strict => pollHr a edge t start prev strict s

/-- One move at a yield point. -/
def runMove (y : Yield) (m : Move) (s : State) : Res :=
  match m with
  | .drive d => .next (driveLines d s)
  | .clock dt => .next (advanceClock (clockStep y dt s) s)
  | .interrupt pin => .next (deliverInterrupt pin s)
  | .engine a => engineMove y a s
  | .host c => hostCall c s

/-- The next move: the oldest one listed, or a free one. -/
def nextMove (s : State) : Move :=
  match s.env.feed with
  | m :: _ => m
  | [] => Config.freeMove s.env.draws

/-- The state once that move is taken from the environment. -/
def takeMove (s : State) : State :=
  match s.env.feed with
  | _ :: r => { s with env := { s.env with feed := r } }
  | [] => { s with env := { s.env with draws := s.env.draws + 1 } }

/-- The next move of the environment, at yield point `y`. -/
def yieldMove (y : Yield) (s : State) : Res := runMove y (nextMove s) (takeMove s)

/-! ## Decode points -/

/-- What a decode point reads: a command, a channel-15 string that is no command, or a fault of the read. -/
inductive Fetched where
  | command (i : Instr)
  | noCommand
  | fault (e : Fault)
  deriving DecidableEq, Repr

/-- The command at a decode point (41_iec_core R512, R520, R525, 44_epyx R808, R809). An over-long channel-15 string is
none (R525). At an ATN rise it is the secondary where one was captured, else the primary. -/
def fetch (site : Site) (s : State) : Fetched :=
  match site with
  | .primary rx => .command (decodePrimary rx)
  | .secondary rx => .command (decodeSecondary rx)
  | .rise =>
      if s.addr.secValid then .command (decodeSecondary s.addr.secondary)
      else .command (decodePrimary s.addr.primary)
  | .cmd15 _ =>
      if s.cmd.overflow then .noCommand
      else match cmdBytes s with
        | .error e => .fault e
        | .ok bytes => match decodeCmd15 bytes with
          | .ok i => .command i
          | .error _ => .noCommand
  | .sum _ sum => .command (decodeEpyxSum sum)
  | .header _ len => .command (.epyxHdr len)

/-- Everything the engine does at a head of the sequencer that is no decode point. -/
def advance (s : State) : Res :=
  match s.seq with
  | [] => yieldMove .between s
  | .yield y :: _ => yieldMove y s
  | p :: rest => runPos p { s with seq := rest }

end Sys2Proof.Machine
end

