-- ==== Sys2Proof/Machine/Primary.lean ====
section
/-! DEFINITION. The meanings of the primaries. A primary acts twice: under ATN, when it arrives, it is captured and
acknowledged or not (41_iec_core R520); at the ATN rise that ends a transaction without a secondary it chooses the role
action, whose secondary is then 0x00 (R512). `atn_active` tells the two apart. Each meaning runs at a decode point and
steps past it. -/

namespace Sys2Proof.Machine

/-- `NULL_PRIMARY`: acknowledged and not recorded (30_encoding R342); an ATN period without a primary is not for us
(41_iec_core R517). -/
def execNullPrimary (s : State) : Res :=
  if s.fl.atnActive then rxAck 0x00 false false s.pop else notForUs s.pop

/-- `UNLISTEN` (41_iec_core R515, R520). -/
def execUnlisten (s : State) : Res :=
  if s.fl.atnActive then rxAck 0x3F false false (setPrimary 0x3F s.pop) else doUnlisten s.pop

/-- `UNTALK` (41_iec_core R516, R520). -/
def execUntalk (s : State) : Res :=
  if s.fl.atnActive then rxAck 0x5F false false (setPrimary 0x5F s.pop) else doUntalk s.pop

/-- `LISTEN` (41_iec_core R513, R520). -/
def execListen (addr : BitVec 5) (s : State) : Res :=
  if s.fl.atnActive then captureAddress (listenByte addr) addr s.pop
  else match s.sel.current with
    | some k => doListen k (riseSec s) s.pop
    | none => notForUs s.pop

/-- `TALK` (41_iec_core R514, R520). -/
def execTalk (addr : BitVec 5) (s : State) : Res :=
  if s.fl.atnActive then captureAddress (talkByte addr) addr s.pop
  else match s.sel.current with
    | some k => doTalk k (riseSec s) s.pop
    | none => notForUs s.pop

/-- `RESERVED_PRIMARY_LOW`: recorded, not acknowledged, and not for us (30_encoding R340). -/
def execReservedPrimaryLow (low : BitVec 5) (s : State) : Res :=
  if s.fl.atnActive then .next (setPrimary (reservedLowByte low) s.pop) else notForUs s.pop

/-- `RESERVED_PRIMARY_60` (30_encoding R340). -/
def execReservedPrimary60 (low : BitVec 5) (s : State) : Res :=
  if s.fl.atnActive then .next (setPrimary (reserved60Byte low) s.pop) else notForUs s.pop

/-- `RESERVED_PRIMARY_80` (30_encoding R340). -/
def execReservedPrimary80 (low : BitVec 7) (s : State) : Res :=
  if s.fl.atnActive then .next (setPrimary (reserved80Byte low) s.pop) else notForUs s.pop

end Sys2Proof.Machine
end

