-- ==== Sys2Proof/Machine/Secondary.lean ====
section
/-! DEFINITION. The meanings of the secondaries. A secondary acts twice: under ATN, when it arrives, it is captured and
acknowledged or not (41_iec_core R520); at the ATN rise it goes with the captured primary to the role action (R512).
`atn_active` tells the two apart. Each meaning runs at a decode point and steps past it. -/

namespace Sys2Proof.Machine

/-- `CLOSE15_IGNORED`: a matched LISTEN or TALK with it does nothing (41_iec_core R518). -/
def execClose15Ignored (s : State) : Res :=
  if s.fl.atnActive then captureSecondary 0xEF s.pop
  else if s.sel.current.isSome then ignoreClose15 s.pop
  else riseRole 0xEF s.pop

/-- `DATA` (41_iec_core R513, R514). -/
def execDataCh (chan : BitVec 4) (s : State) : Res :=
  if s.fl.atnActive then captureSecondary (dataByte chan) s.pop else riseRole (dataByte chan) s.pop

/-- `CLOSE` (41_iec_core R513, R514). -/
def execCloseCh (chan : BitVec 4) (s : State) : Res :=
  if s.fl.atnActive then captureSecondary (closeByte chan) s.pop else riseRole (closeByte chan) s.pop

/-- `OPEN` (41_iec_core R513). -/
def execOpenCh (chan : BitVec 4) (s : State) : Res :=
  if s.fl.atnActive then captureSecondary (openByte chan) s.pop else riseRole (openByte chan) s.pop

/-- `RESERVED_SECONDARY_0_3`: passed to the device unchanged (30_encoding R341). -/
def execReservedSecondary03 (grp : BitVec 2) (chan : BitVec 4) (s : State) : Res :=
  if s.fl.atnActive then captureSecondary (secondary03Byte grp chan) s.pop
  else riseRole (secondary03Byte grp chan) s.pop

/-- `RESERVED_SECONDARY_4_5` (30_encoding R341). -/
def execReservedSecondary45 (grp : BitVec 1) (chan : BitVec 4) (s : State) : Res :=
  if s.fl.atnActive then captureSecondary (secondary45Byte grp chan) s.pop
  else riseRole (secondary45Byte grp chan) s.pop

/-- `RESERVED_SECONDARY_7` (30_encoding R341). -/
def execReservedSecondary7 (chan : BitVec 4) (s : State) : Res :=
  if s.fl.atnActive then captureSecondary (secondary7Byte chan) s.pop else riseRole (secondary7Byte chan) s.pop

/-- `RESERVED_SECONDARY_8_B` (30_encoding R341). -/
def execReservedSecondary8B (grp : BitVec 2) (chan : BitVec 4) (s : State) : Res :=
  if s.fl.atnActive then captureSecondary (secondary8BByte grp chan) s.pop
  else riseRole (secondary8BByte grp chan) s.pop

/-- `RESERVED_SECONDARY_C_D` (30_encoding R341). -/
def execReservedSecondaryCD (grp : BitVec 1) (chan : BitVec 4) (s : State) : Res :=
  if s.fl.atnActive then captureSecondary (secondaryCDByte grp chan) s.pop
  else riseRole (secondaryCDByte grp chan) s.pop

end Sys2Proof.Machine
end

