-- ==== Sys2Proof/Machine/Commands.lean ====
section
/-! DEFINITION. The meanings of the channel-15 commands (41_iec_core R525), run at the end of a listen on channel 15.
Their device operand `k` is the one the decode point names. -/

namespace Sys2Proof.Machine

/-- The device operand of the decode point at the head of the sequencer, and the state past it. -/
def atSite (s : State) (f : Nat → State → Res) : Res :=
  match siteDevice s with
  | some k => f k s.pop
  | none => .refused .notAtDecodePoint

/-- `XQ`: request a burst transmit (43_dolphindos R708). Each of the four commands also resets the Epyx count
(41_iec_core R525), without DolphinDOS too, where 43_dolphindos R701 says that they change no engine state (DEDUCED,
assumption log 30). -/
def execXq (s : State) : Res :=
  atSite s fun k t => .next (epyxReset (dolphinRequest k .tx t))

/-- `XZ`: request a burst receive (43_dolphindos R708). -/
def execXz (s : State) : Res :=
  atSite s fun k t => .next (epyxReset (dolphinRequest k .rx t))

/-- `XF+` (43_dolphindos R709). -/
def execXfPlus (s : State) : Res :=
  atSite s fun k t => .next (epyxReset (burstEnable k true t))

/-- `XF-` (43_dolphindos R709). -/
def execXfMinus (s : State) : Res :=
  atSite s fun k t => .next (epyxReset (burstEnable k false t))

/-- `M-W` (44_epyx R802). -/
def execMemWrite (addr : BitVec 16) (len : Byte) (payload : List Byte) (s : State) : Res :=
  atSite s fun k t => .next (epyxMw k addr len payload t)

/-- `M-E` (44_epyx R803). -/
def execMemExecute (addr : BitVec 16) (s : State) : Res :=
  atSite s fun k t => .next (epyxMe k addr t)

end Sys2Proof.Machine
end

