-- ==== Sys2Proof/Machine/Uploads.lean ====
section
/-! DEFINITION. The meanings of the Epyx routine sums (44_epyx R808) and of the filename header (R809), run inside the
header sniff. Their device operand `k` is the one the decode point names. -/

namespace Sys2Proof.Machine

/-- `EPYX_LOAD_V1`: the load protocol is the same for the three versions (30_encoding R306). -/
def execEpyxLoadV1 (s : State) : Res := atSite s epyxFilename

/-- `EPYX_LOAD_V2`. -/
def execEpyxLoadV2 (s : State) : Res := atSite s epyxFilename

/-- `EPYX_LOAD_V3`. -/
def execEpyxLoadV3 (s : State) : Res := atSite s epyxFilename

/-- `EPYX_SECTOR_0B`. -/
def execEpyxSector0B (s : State) : Res := atSite s fun k t => epyxSector k 0x0B t

/-- `EPYX_SECTOR_B8`. -/
def execEpyxSectorB8 (s : State) : Res := atSite s fun k t => epyxSector k 0xB8 t

/-- `EPYX_SECTOR_BA`. -/
def execEpyxSectorBA (s : State) : Res := atSite s fun k t => epyxSector k 0xBA t

/-- `EPYX_UNKNOWN_SUM`: the failure `ChecksumMismatch` (44_epyx R818); the sum has no further effect. -/
def execEpyxUnknownSum (_sum : Byte) (s : State) : Res :=
  atSite s fun _ t => failWith .checksumMismatch t

/-- `EPYXHDR` (44_epyx R809). -/
def execEpyxHdr (len : Byte) (s : State) : Res := atSite s fun k t => epyxNameStart k len t

end Sys2Proof.Machine
end

