-- ==== Sys2Proof/Machine/Dispatch.lean ====
section
/-! DEFINITION. One arm for each command: its meaning. -/

namespace Sys2Proof.Machine

def exec (i : Instr) (s : State) : Host.Outcome State Fault Refusal :=
  match i with
  | .nullPrimary => Sys2Proof.Machine.execNullPrimary s
  | .unlisten => Sys2Proof.Machine.execUnlisten s
  | .untalk => Sys2Proof.Machine.execUntalk s
  | .listen addr => Sys2Proof.Machine.execListen addr s
  | .talk addr => Sys2Proof.Machine.execTalk addr s
  | .reservedPrimaryLow low => Sys2Proof.Machine.execReservedPrimaryLow low s
  | .reservedPrimary60 low => Sys2Proof.Machine.execReservedPrimary60 low s
  | .reservedPrimary80 low => Sys2Proof.Machine.execReservedPrimary80 low s
  | .close15Ignored => Sys2Proof.Machine.execClose15Ignored s
  | .dataCh chan => Sys2Proof.Machine.execDataCh chan s
  | .closeCh chan => Sys2Proof.Machine.execCloseCh chan s
  | .openCh chan => Sys2Proof.Machine.execOpenCh chan s
  | .reservedSecondary03 grp chan => Sys2Proof.Machine.execReservedSecondary03 grp chan s
  | .reservedSecondary45 grp chan => Sys2Proof.Machine.execReservedSecondary45 grp chan s
  | .reservedSecondary7 chan => Sys2Proof.Machine.execReservedSecondary7 chan s
  | .reservedSecondary8B grp chan => Sys2Proof.Machine.execReservedSecondary8B grp chan s
  | .reservedSecondaryCD grp chan => Sys2Proof.Machine.execReservedSecondaryCD grp chan s
  | .xq => Sys2Proof.Machine.execXq s
  | .xz => Sys2Proof.Machine.execXz s
  | .xfPlus => Sys2Proof.Machine.execXfPlus s
  | .xfMinus => Sys2Proof.Machine.execXfMinus s
  | .memWrite addr len payload => Sys2Proof.Machine.execMemWrite addr len payload s
  | .memExecute addr => Sys2Proof.Machine.execMemExecute addr s
  | .epyxLoadV1 => Sys2Proof.Machine.execEpyxLoadV1 s
  | .epyxLoadV2 => Sys2Proof.Machine.execEpyxLoadV2 s
  | .epyxLoadV3 => Sys2Proof.Machine.execEpyxLoadV3 s
  | .epyxSector0B => Sys2Proof.Machine.execEpyxSector0B s
  | .epyxSectorB8 => Sys2Proof.Machine.execEpyxSectorB8 s
  | .epyxSectorBA => Sys2Proof.Machine.execEpyxSectorBA s
  | .epyxUnknownSum sum => Sys2Proof.Machine.execEpyxUnknownSum sum s
  | .epyxHdr len => Sys2Proof.Machine.execEpyxHdr len s

end Sys2Proof.Machine
end

