-- ==== Sys2Proof/Machine/Step.lean ====
section
/-! DEFINITION. One step of the machine, and the state that runs a given command next. -/

namespace Sys2Proof.Machine

/-- One step: at a decode point the command there is run; anywhere else one statement of the engine, or at a yield
point one move of an agent (10_state R106). A channel-15 string that is no command resets the Epyx counter
(41_iec_core R525). -/
def step (s : State) : Host.Outcome State Fault Refusal :=
  match s.seq with
  | .decode site :: _ =>
      match fetch site s with
      | .command i => exec i s
      | .noCommand => .next (epyxReset s.pop)
      | .fault e => .fault e
  | _ => advance s

/-- The bytes from index 0 as buffer contents. -/
def listed (i : Nat) : List Byte → Memory
  | [] => []
  | b :: bs => (i, b) :: listed (i + 1) bs

/-- `s` inside a tick, at a decode point of the listen step, with ATN low: the receive of an addressing byte. -/
def atListen (site : Site) (s : State) : State :=
  { s with
    seq := [.decode site, .tick .s6, .yield .between]
    fl := { s.fl with atnActive := true, inTick := true }
    bus := { s.bus with mode := .underAtn, done := false }
    env := { s.env with drives := { s.env.drives with hostAtn := true } } }

/-- `s` with a command where the next step reads it (assumption log 5): under ATN for a primary or a secondary, the
secondary after a LISTEN of the first device; as the captured string of the first device at the UNLISTEN for a
channel-15 command; as the uploaded routine's sum, or the length byte after it, for the first device. -/
def State.withFetchWord (s : State) (nbits w : Nat) : State :=
  let bytes := tableBytes nbits w
  let b := bytes.headD 0
  match tableFormat nbits w with
  | .pri => { atListen (.primary b) s with addr := ⟨0x00, 0x00, false⟩, sel := { s.sel with current := none } }
  | .sec => { atListen (.secondary b) s with addr := ⟨0x28, 0x00, false⟩, sel := { s.sel with current := some 0 } }
  | .cmd15 =>
      { s with
        seq := [.decode (.cmd15 0), .role (.unlisten 0), .tick .s3, .yield .between]
        fl := { s.fl with inTick := true }
        addr := ⟨0x3F, 0x00, false⟩
        sel := { s.sel with listener := some 0, listenerSec := 0x6F }
        cmd := ⟨listed 0 bytes, bytes.length, false⟩ }
  | .epyxSum => { s with seq := [.decode (.sum 0 b), .tick .s5, .yield .between], fl := { s.fl with inTick := true } }
  | .epyxHdr => { s with seq := [.decode (.header 0 b), .tick .s5, .yield .between], fl := { s.fl with inTick := true } }

end Sys2Proof.Machine
end

