-- ==== Sys2Proof/Safety.lean ====
section
/-! DEFINITION. What the claims speak of: reading one byte of the block's two memories, what an engine statement leaves
alone, the part of the state a step may not spoil (`Inv`), and where a failure goes on. -/

namespace Sys2Proof.Machine

/-! ## Memory -/

/-- Every byte of `buf` and of `cmd_buf` reads the same. -/
def SameMemory (s t : State) : Prop :=
  ∀ a, memGet t.buf a = memGet s.buf a ∧ memGet t.cmd.buf a = memGet s.cmd.buf a

/-- Every listed index is below `size`. -/
def Memory.below (size : Nat) (m : Memory) : Bool := m.all fun c => decide (c.1 < size)

/-- Every index below `n` is listed: reading it is no fault. -/
def Memory.filled (n : Nat) (m : Memory) : Bool := (List.range n).all fun i => (memGet m i).isSome

/-! ## What stays the same -/

/-- The block's registers outside the named groups of a frame: configuration, registry, main-loop progress. -/
def SameFixed (s t : State) : Prop :=
  t.cfg = s.cfg ∧ t.registry = s.registry ∧ t.engine = s.engine ∧ t.life = s.life

/-- What the agents outside the engine hold: their line drives, the clock, and the moves still to come. -/
def SameAgents (s t : State) : Prop :=
  t.env.drives = s.env.drives ∧ t.env.micros = s.env.micros ∧ t.env.feed = s.env.feed

/-- What identifies a table entry: everything but its flags (41_iec_core R504). -/
def Entry.identity (e : Entry) : Bool × BitVec 5 × Handle × BitVec 12 := (e.valid, e.address, e.handle, e.configured)

/-- The table without its flags. -/
def tableOf (s : State) : List (Bool × BitVec 5 × Handle × BitVec 12) := s.dev.map Entry.identity

/-- A statement of construction or `begin()`. -/
def Pos.isBoot : Pos → Bool
  | .boot _ => true
  | _ => false

/-- `begin()` is over: none of its statements, nor of construction, is still to run. -/
def Ready (s : State) : Prop := s.life = .begun ∧ s.seq.any Pos.isBoot = false

/-- The head of the sequencer is a yield point, or there is none. -/
def AtYield (s : State) : Prop := s.seq = [] ∨ ∃ y r, s.seq = .yield y :: r

/-! ## Where a failure goes on (60_exceptions R1001, 45_scheduler R915) -/

/-- A statement at which a failure on its way to `tick()` stops or acts. -/
def Pos.catches : Pos → Bool
  | .tick .s3 => true
  | .tick .s4 => true
  | .tick .s5 => true
  | .tick .s6 => true
  | .tick .s7 => true
  | .tick .s8 => true
  | .tick .posted => true
  | .epyx (.guarded _) => true
  | .dol .releaseClk => true
  | _ => false

/-! ## The invariant of every step -/

/-- The table: at most `MAX_DEVICES` entries, all valid, addresses at most 30 and unique (41_iec_core R501), and no
hardwired flag set (10_state R131). -/
def tableOk (s : State) : Prop :=
  s.dev.length ≤ s.cfg.maxDevices
    ∧ (s.dev.map Entry.address).Nodup
    ∧ ∀ e ∈ s.dev, e.valid = true ∧ e.address ≠ 31 ∧ e.flags &&& ~~~wiredMask s.cfg = 0
        ∧ e.configured &&& ~~~(persistentMask &&& wiredMask s.cfg) = 0

/-- The buffers: both memories in canonical form and inside their ranges (20_memory R203, R204), and every byte of the
captured command written. -/
def buffersOk (s : State) : Prop :=
  Memory.wf s.buf = true ∧ Memory.below s.cfg.bufSize s.buf = true
    ∧ Memory.wf s.cmd.buf = true ∧ Memory.below s.cfg.cmd15Max s.cmd.buf = true
    ∧ s.cmd.len ≤ s.cfg.cmd15Max ∧ Memory.filled s.cmd.len s.cmd.buf = true

/-- The drivers and latches of absent hardware rest (10_state R114, R140, 20_memory R205). -/
def wiringOk (s : State) : Prop :=
  (s.cfg.hasCtrlPin = false → s.drv.ctrlOn = false)
    ∧ (s.cfg.hasParallel = false → s.drv.parOutMode = false ∧ s.drv.ht = false)
    ∧ (s.env.attached = true → s.cfg.hasAtnIrq = true)
    ∧ (s.fl.irqPending = true → s.cfg.hasAtnIrq = true)

/-- The counters: the held and the captured bytes (10_state R150), the write counter with its version (R156), and the
registry (R160). -/
def countersOk (s : State) : Prop :=
  (s.dol.preN ≤ s.cfg.prebufferBytes ∧ s.dol.capN ≤ s.cfg.prebufferBytes)
    ∧ (s.epyx.ctr = 0 ↔ s.epyx.ver = none)
    ∧ s.registry.length ≤ s.cfg.maxEngines

/-- What every step keeps. -/
def Inv (s : State) : Prop := tableOk s ∧ buffersOk s ∧ wiringOk s ∧ countersOk s

end Sys2Proof.Machine
end

