-- ==== Sys2Proof/Certificates/Slice0/Obligations.lean ====
section
/-! DEFINITION. The statements for the provers. A statement about a command's own effect is an equation `exec i s =
.next …`, or gives the next state's fields, for every state that meets conditions on the state and the operands alone;
a field that an equation does not write is unchanged. -/

open Sys2Proof Sys2Proof.Machine

/-! ## Decoding (30_encoding) -/

/-- Decoding the encoding of a well-formed command gives it back, with every operand at every value. -/
def Obligations.EncodedCommandsDecodeToThemselves : Prop :=
  ∀ i : Instr, i.wellFormed = true → decode (formatOf i) (encode i) = .ok i

/-- A decoded command is well-formed, of the format it was read in, and its encoding starts the bytes it was read from
(30_encoding R303, R321, R322). -/
def Obligations.DecodedCommandsStartTheirBytes : Prop :=
  ∀ (f : Format) (bytes : List Byte) (i : Instr), decode f bytes = .ok i →
    formatOf i = f ∧ i.wellFormed = true ∧ encode i <+: bytes

/-- A few words of the table (30_encoding R303, R321, R322, 44_epyx R808). -/
def Obligations.SampleWordsOfTheTableDecode : Prop :=
  decode .pri [0x28] = .ok (.listen 8) ∧ decode .pri [0x3E] = .ok (.listen 30) ∧ decode .pri [0x3F] = .ok .unlisten ∧
  decode .pri [0x48] = .ok (.talk 8) ∧ decode .pri [0x5F] = .ok .untalk ∧ decode .pri [0x00] = .ok .nullPrimary ∧
  decode .sec [0x61] = .ok (.dataCh 1) ∧ decode .sec [0xEF] = .ok .close15Ignored ∧
  decode .sec [0xE1] = .ok (.closeCh 1) ∧ decode .sec [0xF0] = .ok (.openCh 0) ∧
  decode .cmd15 [0x58, 0x51, 0x0D] = .ok .xq ∧ decode .cmd15 [0x58, 0x46, 0x2D] = .ok .xfMinus ∧
  decode .cmd15 [0x4D, 0x2D, 0x45, 0xA9, 0x01] = .ok (.memExecute 0x01A9) ∧
  decode .epyxSum [0x86] = .ok .epyxLoadV2 ∧ decode .epyxHdr [0x04] = .ok (.epyxHdr 4)

/-- At a decode point `step` runs the command that the bytes there decode to: the received byte, the captured secondary
or primary at an ATN rise, the captured channel-15 string, the routine sum, and the length byte. -/
def Obligations.StepRunsTheDecodedCommand : Prop :=
  ∀ (s : State) (rest : List Pos) (i : Instr),
    (∀ rx, s.seq = .decode (.primary rx) :: rest → decode .pri [rx] = .ok i → step s = exec i s) ∧
    (∀ rx, s.seq = .decode (.secondary rx) :: rest → decode .sec [rx] = .ok i → step s = exec i s) ∧
    (s.seq = .decode .rise :: rest → s.addr.secValid = true → decode .sec [s.addr.secondary] = .ok i →
      step s = exec i s) ∧
    (s.seq = .decode .rise :: rest → s.addr.secValid = false → decode .pri [s.addr.primary] = .ok i →
      step s = exec i s) ∧
    (∀ k bytes, s.seq = .decode (.cmd15 k) :: rest → s.cmd.overflow = false → cmdBytes s = .ok bytes →
      decode .cmd15 bytes = .ok i → step s = exec i s) ∧
    (∀ k sum, s.seq = .decode (.sum k sum) :: rest → decode .epyxSum [sum] = .ok i → step s = exec i s) ∧
    (∀ k len, s.seq = .decode (.header k len) :: rest → decode .epyxHdr [len] = .ok i → step s = exec i s)

/-- An over-long channel-15 string, or one that is no command, only resets the Epyx count (41_iec_core R525, 44_epyx
R804, 30_encoding R343). -/
def Obligations.OtherStringsOnlyResetTheEpyxCount : Prop :=
  ∀ (s : State) (k : Nat) (rest : List Pos), s.seq = .decode (.cmd15 k) :: rest →
    (s.cmd.overflow = true ∨ ∃ bytes, cmdBytes s = .ok bytes ∧ ∀ i, decode .cmd15 bytes ≠ .ok i) →
    step s = .next { s with
      seq := rest
      epyx := if s.cfg.featEpyx then { s.epyx with ctr := 0, ver := none } else s.epyx }

/-! ## What every step keeps -/

/-- Right after reset the invariant holds, in the configuration of assumption log 3, which is the model's choice. -/
def Obligations.InvariantHoldsAfterReset : Prop := Inv State.reset

/-- Every step keeps the invariant: the table's addresses are unique and at most 30 and no hardwired flag is set
(41_iec_core R501, 10_state R131); both memories keep their canonical form and range, and the captured command is all
written (20_memory R203, R204); absent hardware rests (10_state R140, 20_memory R205); the counters keep their ranges
(10_state R150, R155, R156, R160), that of `dol_pre_n` by the reading of assumption log 18. -/
def Obligations.EveryStepKeepsTheInvariant : Prop :=
  ∀ s t : State, Inv s → step s = .next t → Inv t

/-- Once `begin()` is over, no step adds or removes a table entry or changes an address, and it stays over (41_iec_core
R504); the engine's number stays, and a registry slot once bound is never changed, by a RESET neither (10_state R160,
R170). -/
def Obligations.TableIsFixedAfterBegin : Prop :=
  ∀ s t : State, Ready s → step s = .next t →
    Ready t ∧ tableOf t = tableOf s ∧ t.engine = s.engine ∧ s.registry <+: t.registry

/-- Between two yield points no other agent acts: the outside drives, the clock and the moves to come stay, and so do
the configuration and the registry (10_state R106, R160). -/
def Obligations.EngineStatementsLeaveTheOutsideAlone : Prop :=
  ∀ s t : State, ¬ AtYield s → step s = .next t →
    SameAgents s t ∧ t.cfg = s.cfg ∧ t.registry = s.registry ∧ t.engine = s.engine

/-- What reset leaves: the construction column of 10_state R170, for the fields that have a value there: every entry is
valid with its configured persistent flags and no transient one, and a registry slot is bound to the engine. The device in
the table is the model's choice (assumption log 3). -/
def Obligations.ResetLeavesTheConstructionValues : Prop :=
  State.reset.bus = ⟨.idle, false⟩ ∧ State.reset.seq = [.yield .between] ∧
  State.reset.fl = ⟨false, false, false, false, false⟩ ∧ State.reset.addr = ⟨0x00, 0x00, false⟩ ∧
  State.reset.sel = ⟨none, none, 0x00, none, 0x00⟩ ∧ State.reset.drv = ⟨false, false, false, false, 0xFF, false⟩ ∧
  State.reset.talk.txFirst = true ∧ State.reset.dol.preArm = false ∧ State.reset.dol.preN = 0 ∧
  State.reset.dol.capN = 0 ∧ State.reset.cmd.len = 0 ∧ State.reset.cmd.overflow = false ∧
  State.reset.epyx.ctr = 0 ∧ State.reset.epyx.ver = none ∧
  (∀ e ∈ State.reset.dev, e.valid = true ∧ e.flags &&& transientMask = 0 ∧
    e.flags &&& persistentMask = e.configured) ∧
  (∃ r ∈ State.reset.registry, r.engine = State.reset.engine) ∧
  ∀ i, (bufRead State.reset i = .error .unwritten ∨ bufRead State.reset i = .error .bufIndex)

/-! ## Buffers -/

/-- A byte of `buf` reads back as written, no other byte changes, and an index out of range is a fault
(20_memory R203, 60_exceptions R1021). -/
def Obligations.BufferBytesReadBackAsWritten : Prop :=
  ∀ (s : State) (i : Nat) (b : Byte),
    (s.cfg.bufSize ≤ i → bufWrite i b s = .fault .bufIndex ∧ bufRead s i = .error .bufIndex) ∧
    (i < s.cfg.bufSize → ∃ t, bufWrite i b s = .next t ∧ bufRead t i = .ok b ∧
      (∀ j, j ≠ i → bufRead t j = bufRead s j) ∧ t = { s with buf := t.buf })

/-! ## Lines (40_timing) -/

/-- Every line's level is the wired-AND of its drivers, with the ATN override on DATA, and an unwired pin reads `HIGH`
(40_timing R404, R406, 20_memory R205); pin k of the parallel bus carries bit k, and an outside driver can only turn a
bit to 0 (40_timing R417). -/
def Obligations.LineLevelsAreTheWiredAndOfTheDrivers : Prop :=
  ∀ s : State,
    (s.cfg.hasParallel = true → parRead (parInput s) = ~~~s.env.drives.par ∧
      ∀ b, parRead (parOutput b s) = b &&& ~~~s.env.drives.par) ∧
    (readLine s .atn = .low ↔ s.env.drives.hostAtn = true) ∧
    (readLine s .clk = .low ↔ s.drv.clk = true ∨ s.env.drives.hostClk = true ∨ s.env.drives.othersClk = true) ∧
    (readLine s .data = .low ↔ s.drv.data = true ∨ s.env.drives.hostData = true ∨ s.env.drives.othersData = true ∨
      (s.cfg.hasCtrlPin = true ∧ s.drv.ctrlOn = true ∧ readLine s .atn = .low)) ∧
    (∀ k, readLine s (.par k) = .low ↔ s.cfg.hasParallel = true ∧
      ((s.drv.parOutMode = true ∧ s.drv.parOut.getLsbD k = false) ∨ s.env.drives.par.getLsbD k = true)) ∧
    (readLine s .ht = .low ↔ s.cfg.hasParallel = true ∧ (s.drv.ht = true ∨ s.env.drives.hostHt = true)) ∧
    (readLine s .hr = .low ↔ s.cfg.hasParallel = true ∧ s.env.drives.hostHr = true) ∧
    (readLine s .reset = .low ↔ s.cfg.hasResetPin = true ∧ s.env.drives.reset = true)

/-- `elapsed` is the time since `start` also across the wrap of `micros()` (40_timing R409, 70_reset R1108); a
threshold of `half` half microseconds on it holds within `T_TOL`, and inside the band both answers are admitted, up to the
last whole microsecond of the band (40_timing R412). A wait for a time, a `wait_until`, of an odd number of half
microseconds too, and a line wait or a wait for HR with a timeout do not last past the last whole microsecond of their
bands: the clock stops there until the engine polls (R413, R418; assumption log 7 says how the model keeps this). With a
`T_TOL` of 0 the odd half microsecond is rounded up. -/
def Obligations.ThresholdsHoldWithinTheTolerance : Prop :=
  (∀ (s : State) (start : Micros) (d : Nat), d < 2 ^ 32 → s.env.micros = start + BitVec.ofNat 32 d →
    elapsed s start = d) ∧
  (∀ (c : Cfg) (e half : Nat),
    (half + 2 * c.tTol ≤ 2 * e → ∀ a, timeUp c a e half = true) ∧
    (2 * (e + c.tTol) < half → ∀ a, timeUp c a e half = false) ∧
    (half ≤ 2 * (e + c.tTol) → ∃ a, timeUp c a e half = true) ∧
    (2 * e + half % 2 < half + 2 * c.tTol → ∃ a, timeUp c a e half = false)) ∧
  ∀ (s : State) (rest : List Pos) (l : Line) (lvl prev : Level) (t half last : Nat) (start dt : Micros) (strict : Bool)
    (more : List Move), s.env.feed = .clock dt :: more →
    last = (if s.cfg.tTol = 0 then (half + 1) / 2 else half / 2 + s.cfg.tTol) → last < 2 ^ 32 →
    elapsed s start ≤ last →
    (s.seq = .yield (.waitUntil half start) :: rest ∨
      half = 2 * t ∧ (s.seq = .yield (.waitUs t start strict) :: rest ∨
        t ≠ 0 ∧ (s.seq = .yield (.waitFor l lvl t start strict) :: rest ∨
          s.seq = .yield (.waitHr lvl t start prev strict) :: rest))) →
    ∃ u, step s = .next u ∧ elapsed u start ≤ last ∧
      (elapsed s start + dt.toNat ≤ last → elapsed u start = elapsed s start + dt.toNat) ∧
      u = { s with env := { s.env with feed := more, micros := u.env.micros } }

/-- One iteration of a line wait tests the ATN rule first, then the level, then the timeout (40_timing R408,
60_exceptions R1010); where none holds the wait goes on. A wait that is not strict leaves its result for the next
statement; a strict one goes on when the level is reached, and otherwise fails with `AtnPreempted` or
`TimeoutMissedEdge` (00_scope R9, 60_exceptions R1003, R1004). -/
def Obligations.WaitTestsAtnThenLevelThenTimeout : Prop :=
  ∀ (s : State) (rest : List Pos) (l : Line) (lvl : Level) (t : Nat) (start : Micros) (a : Answer) (more : List Move),
    s.env.feed = .engine a :: more →
    (s.seq = .yield (.waitFor l lvl t start true) :: rest → step s =
      if atnMismatch s = true then
        failWith .atnPreempted { s with seq := rest, env := { s.env with feed := more } }
      else if readLine s l = lvl then .next { s with seq := rest, env := { s.env with feed := more } }
      else if t ≠ 0 ∧ timeUp s.cfg a (elapsed s start) (2 * t) = true then
        failWith .timeoutMissedEdge { s with seq := rest, env := { s.env with feed := more } }
      else .next { s with env := { s.env with feed := more } }) ∧
    (s.seq = .yield (.waitFor l lvl t start false) :: rest → step s = .next
      (if atnMismatch s = true then
        { s with seq := rest, env := { s.env with feed := more }, work := { s.work with wait := .atnAbort } }
      else if readLine s l = lvl then
        { s with seq := rest, env := { s.env with feed := more }, work := { s.work with wait := .reached } }
      else if t ≠ 0 ∧ timeUp s.cfg a (elapsed s start) (2 * t) = true then
        { s with seq := rest, env := { s.env with feed := more }, work := { s.work with wait := .timeout } }
      else { s with env := { s.env with feed := more } }))

/-! ## Failure and the block's exceptions (60_exceptions, 45_scheduler) -/

/-- A failure of a step of `tick()` unmasks, returns the parallel bus to input, goes on at S7, and does to the lines
and to `done` what its kind says; memory, table and selection are untouched (60_exceptions R1001, 45_scheduler R915).
A failure of S7 goes on at S8, and one of the post-tick poll ends it. On its way through a DolphinDOS burst transmit, the
frame `.dol .releaseClk`, a failure of any kind releases CLK first (43_dolphindos R712, R714). -/
def Obligations.FailureReturnsToTheTick : Prop :=
  ∀ (kind : ErrKind) (s : State) (frames burst rest : List Pos) (p q : TickPos),
    kind ≠ .notAddressed → kind ≠ .verifyError → (∀ f ∈ frames, f.catches = false) →
    (burst = [] ∨ ∃ callers, burst = .dol .releaseClk :: callers ∧ ∀ f ∈ callers, f.catches = false) →
    ((p = .s3 ∨ p = .s4 ∨ p = .s5 ∨ p = .s6 ∨ p = .s7) ∧ q = .s7 ∨ p = .s8 ∧ q = .s8 ∨ p = .posted ∧ q = .posted) →
    s.seq = frames ++ burst ++ .tick p :: rest → s.fl.inTick = true →
    ∃ t, failWith kind s = .next t ∧ t.seq = .tick q :: rest ∧
      t.fl.irqMasked = false ∧ t.drv.parOutMode = false ∧
      (kind = .timeoutMissedEdge ∨ kind = .deviceRefused →
        t.drv.clk = false ∧ t.drv.data = false ∧ t.bus.done = true) ∧
      (kind = .checksumMismatch → t.drv.clk = false ∧ t.drv.data = false ∧ t.bus.done = s.bus.done) ∧
      (kind = .atnPreempted → t.drv.data = s.drv.data ∧ t.bus.done = s.bus.done) ∧
      (kind = .atnPreempted → burst = [] → t.drv.clk = s.drv.clk) ∧ (burst ≠ [] → t.drv.clk = false) ∧
      t.bus.mode = s.bus.mode ∧ t.dev = s.dev ∧ t.sel = s.sel ∧ SameMemory s t

/-- A failure while an Epyx block is sent first ends the load: the flag is cleared, the device gets `untalk()`,
`listen(0xE0)` and `unlisten()`, and then the same failure goes on (44_epyx R812, R813). -/
def Obligations.FailedEpyxBlockClosesTheFile : Prop :=
  ∀ (kind : ErrKind) (s : State) (frames rest : List Pos) (k : Nat),
    kind ≠ .notAddressed → kind ≠ .verifyError → (∀ f ∈ frames, f.catches = false) →
    s.seq = frames ++ .epyx (.guarded k) :: rest → s.fl.inTick = true →
    ∃ t u, failWith kind s = .next t ∧ step t = .next u ∧
      u.seq = .yield (.call (.untalk k)) :: .yield (.call (.listen k 0xE0)) :: .yield (.call (.unlisten k)) ::
        .epyx .closed :: .raise kind :: rest ∧
      u.flag k .epyxLoad = false ∧ SameMemory s u

/-- The conditions a model must fault on (60_exceptions R1006, R1021): a nested mask, a device answer longer than asked
for, a tick that ends masked, before or after its post-tick poll, a DolphinDOS routine that leaves the parallel bus driven,
and a failure `VerifyError`. The same fault for `NotAddressed` is the model's inference (assumption log 11). -/
def Obligations.ModelFaultsStopTheMachine : Prop :=
  (∀ s : State, failWith .verifyError s = .fault .verifyFail ∧ failWith .notAddressed s = .fault .verifyFail) ∧
  (∀ s : State, s.fl.irqMasked = true → maskIrq s = .fault .maskNested) ∧
  (∀ (s : State) (k cap : Nat) (rest : List Pos) (a : Answer) (more : List Move),
    s.seq = .yield (.call (.readInto k cap)) :: rest → s.env.feed = .engine a :: more → cap < a.bytes.length →
    step s = .fault .deviceContract) ∧
  (∀ (s : State) (rest : List Pos), s.seq = .tick .finish :: rest ∨ s.seq = .tick .posted :: rest →
    s.fl.irqMasked = true → step s = .fault .maskLeak) ∧
  (∀ (s : State) (rest : List Pos), s.seq = .dol .returned :: rest → s.drv.parOutMode = true →
    step s = .fault .parDirLeak)

/-- The ATN falling edge: what it writes and that it writes nothing else (41_iec_core R510); and `atn_request()`, which
steps S2 and S7 run: ATN low with `atn_active` false is the fall, ATN high with it true is the rise, whose captured command
is decoded next, and otherwise nothing happens (45_scheduler R902). -/
def Obligations.AtnFallWritesItsFieldsAndKeepsTheRest : Prop :=
  (∀ s : State, atnFall s = { s with
    fl := { s.fl with atnActive := true }
    bus := ⟨.underAtn, false⟩
    drv := { s.drv with clk := false, data := true, ctrlOn := if s.cfg.hasCtrlPin then false else s.drv.ctrlOn }
    addr := ⟨0x00, 0x00, false⟩
    sel := { s.sel with current := none }
    dol := { s.dol with preArm := false }
    dev := s.dev.map fun e => if e.valid then { e with flags := e.flags &&& persistentMask } else e }) ∧
  ∀ (s : State) (rest : List Pos) (p q : TickPos), p = .s2 ∧ q = .s3 ∨ p = .s7 ∧ q = .s8 → s.seq = .tick p :: rest →
    (readLine s .atn = .low → s.fl.atnActive = false →
      step s = .next (atnFall { s with seq := .tick q :: rest })) ∧
    (readLine s .atn = .high → s.fl.atnActive = true → step s = .next { s with
      fl := { s.fl with atnActive := false }
      bus := { s.bus with done := false }
      seq := .decode .rise :: .tick q :: rest }) ∧
    ((readLine s .atn = .low ↔ s.fl.atnActive = true) → step s = .next { s with seq := .tick q :: rest })

/-- An ATN falling edge with the ISR attached is latched in `irq_pending` while masked, merged with an edge not delivered
yet, and else held by the platform; the platform delivers it at a yield point through the registry's slots, and
another engine's pin has no effect here (assumption log 8). A delivered interrupt is latched while masked, without effect
inside a tick, and otherwise the ATN fall if ATN is low and not yet seen; entry and return save and restore nothing. The
end of a mask runs a latched one (45_scheduler R912, 10_state R160, 60_exceptions R1008, R1011, R1012). -/
def Obligations.InterruptActsOnlyUnmaskedOutsideATick : Prop :=
  (∀ (s : State) (y : Yield) (rest : List Pos) (more : List Move) (d : Drives),
    s.seq = .yield y :: rest → s.env.feed = .drive d :: more → s.env.attached = true → d.hostAtn = true →
    s.env.drives.hostAtn = false →
    (s.fl.irqMasked = true → step s = .next { s with
      fl := { s.fl with irqPending := true }, env := { s.env with feed := more, drives := d, edge := false } }) ∧
    (s.fl.irqMasked = false →
      step s = .next { s with env := { s.env with feed := more, drives := d, edge := true } })) ∧
  (∀ (s s' : State) (y : Yield) (rest : List Pos) (more : List Move) (pin : Nat),
    s.seq = .yield y :: rest → s.env.feed = .interrupt pin :: more →
    (⟨s.engine, pin⟩ ∉ s.registry → step s = .next { s with env := { s.env with feed := more } }) ∧
    (⟨s.engine, pin⟩ ∈ s.registry → s.env.attached = true → s.env.edge = true →
      s' = { s with env := { s.env with feed := more, edge := false } } →
      (s.fl.irqMasked = true → step s = .next { s' with fl := { s.fl with irqPending := true } }) ∧
      (s.fl.irqMasked = false → s.fl.inTick = true → step s = .next s') ∧
      (s.fl.irqMasked = false → s.fl.inTick = false → readLine s .atn = .low → s.fl.atnActive = false →
        step s = .next (atnFall s')) ∧
      (s.fl.irqMasked = false → s.fl.inTick = false → (readLine s .atn = .high ∨ s.fl.atnActive = true) →
        step s = .next s'))) ∧
  ∀ s s' : State, s' = { s with fl := { s.fl with irqMasked := false, irqPending := false } } →
    (s.fl.irqPending = true → s.fl.inTick = false → readLine s .atn = .low → s.fl.atnActive = false →
      unmaskIrq s = atnFall s') ∧
    ((s.fl.irqPending = false ∨ s.fl.inTick = true ∨ readLine s .atn = .high ∨ s.fl.atnActive = true) →
      unmaskIrq s = s')

/-- A falling edge of RESET seen by step S1 resets every field, keeps the table, the registry and the configuration,
and calls `reset()` on each device; RESET held low does not reset again (45_scheduler R901, 70_reset R1102). -/
def Obligations.ResetEdgeResetsEverythingButTheTable : Prop :=
  ∀ (s : State) (rest : List Pos), s.seq = .tick .s1 :: rest → s.cfg.hasResetPin = true → readLine s .reset = .low →
    (s.fl.resetSeenPrev = false → ∃ t, step s = .next t ∧
      t.seq = (validIndices s).map (fun k => .yield (.call (.reset k))) ++ .tick .s2 :: rest ∧
      t.bus = ⟨.idle, false⟩ ∧ t.fl = ⟨false, true, true, false, false⟩ ∧ t.addr = ⟨0x00, 0x00, false⟩ ∧
      t.sel = ⟨none, none, 0x00, none, 0x00⟩ ∧ t.drv = ⟨false, false, false, false, 0xFF, false⟩ ∧
      t.talk.txFirst = true ∧ t.dol.preArm = false ∧ t.dol.preN = 0 ∧ t.dol.capN = 0 ∧ t.cmd.len = 0 ∧
      t.cmd.overflow = false ∧ t.epyx.ctr = 0 ∧ t.epyx.ver = none ∧ tableOf t = tableOf s ∧
      (∀ e ∈ t.dev, e.flags = e.configured &&& persistentMask &&& wiredMask s.cfg) ∧
      SameFixed s t ∧ t.env = s.env) ∧
    (s.fl.resetSeenPrev = true → step s = .next { s with
      seq := .tick .s2 :: rest
      fl := { s.fl with inTick := true } })

/-! ## The table and the main loop -/

/-- `find(a)` is the least valid index with that address, else none; in a table that `add_device` made, at most one entry
matches, and `find(31)` is none (41_iec_core R502). -/
def Obligations.FindIsTheLeastMatchingIndex : Prop :=
  ∀ (s : State) (a : BitVec 5),
    (∀ k, find s a = some k ↔
      (k < s.dev.length ∧ (entryAt s.dev k).valid = true ∧ (entryAt s.dev k).address = a ∧
        ∀ j < k, ¬ ((entryAt s.dev j).valid = true ∧ (entryAt s.dev j).address = a))) ∧
    (find s a = none ↔
      ∀ j < s.dev.length, ¬ ((entryAt s.dev j).valid = true ∧ (entryAt s.dev j).address = a)) ∧
    (tableOk s → find s 31 = none ∧
      ∀ i j, i < s.dev.length → j < s.dev.length → (entryAt s.dev i).address = a → (entryAt s.dev j).address = a → i = j)

/-- `add_device` refuses an address above 30, one already in the table, and a full table, and otherwise enters the
device at the end with the configured flags that its features have (41_iec_core R500, R501). -/
def Obligations.AddDeviceEntersOrRefuses : Prop :=
  ∀ (s : State) (h : Handle) (flags : BitVec 12) (rest : List Pos) (a : BitVec 5),
    s.seq = .boot (.added h flags) :: rest → s.work.answer.addr = a → (∀ e ∈ s.dev, e.valid = true) →
    (a = 31 ∨ (∃ e ∈ s.dev, e.address = a) ∨ s.cfg.maxDevices ≤ s.dev.length → step s = .next { s with seq := rest }) ∧
    (a ≠ 31 → (∀ e ∈ s.dev, e.address ≠ a) → s.dev.length < s.cfg.maxDevices →
      ∃ e : Entry, step s = .next { s with seq := rest, dev := s.dev ++ [e] } ∧ e.valid = true ∧ e.address = a ∧
        e.handle = h ∧ e.flags = flags &&& persistentMask &&& wiredMask s.cfg)

/-- The calls that a model must refuse: a second `begin()`, `tick()` before it or inside a tick, `add_device` after it,
a third engine, and a configuration below the buffer minimums (70_reset R1100, R1101, R1103, R1112, R1113,
60_exceptions R1018). -/
def Obligations.HostCallsOutOfTurnAreRefused : Prop :=
  (∀ s : State, s.life = .begun → hostCall .begin s = .refused .secondBegin) ∧
  (∀ s : State, s.life ≠ .begun → hostCall .tick s = .refused .tickBeforeBegin) ∧
  (∀ (s : State) (c : DevCall) (rest : List Pos), s.life = .begun → s.seq = .yield (.call c) :: rest →
    hostCall .tick s = .refused .tickInTick) ∧
  (∀ (s : State) (h : Handle) (f : BitVec 12), s.life = .begun → hostCall (.addDevice h f) s = .refused .addAfterBegin) ∧
  (∀ (s : State) (c : Cfg) (pin : Nat), s.life ≠ .unbuilt → s.cfg.maxEngines ≤ s.registry.length →
    hostCall (.construct c pin) s = .refused .thirdEngine) ∧
  (∀ (s : State) (c : Cfg) (pin : Nat), s.life = .unbuilt → s.registry.length < c.maxEngines →
    (c.featEpyx = true ∧ c.bufSize < 32 ∨ c.featDolphin = true ∧ c.bufSize < 2 ∨
      c.sectorOps = true ∧ c.bufSize < 256) →
    hostCall (.construct c pin) s = .refused .badConfig)

/-! ## Primaries and secondaries under ATN (41_iec_core R520) -/

/-- LISTEN or TALK of an address in the table, as the first byte under ATN, selects the device and tells it; of an
address no entry has, it is recorded and not acknowledged (R520; that R1002's first bullet does not speak of it is the
reading of assumption log 33). UNLISTEN and UNTALK are recorded and acknowledged
(41_iec_core R520, R522, R523). -/
def Obligations.AddressingSelectsTheMatchingDevice : Prop :=
  ∀ (s : State) (addr : BitVec 5) (i : Instr) (rx : Byte), s.fl.atnActive = true → s.addr.primary = 0x00 →
    ((i = .listen addr ∧ rx = 0x20 ||| addr.setWidth 8 ∨ i = .talk addr ∧ rx = 0x40 ||| addr.setWidth 8) →
      (∀ k, find s addr = some k → exec i s = .next { s with
        addr := { s.addr with primary := rx }
        sel := { s.sel with current := some k }
        seq := .yield (.call (.primaryAddress k rx)) :: .rx (.ack rx false false) :: s.seq.tail }) ∧
      (find s addr = none → exec i s = .next { s with addr := { s.addr with primary := rx }, seq := s.seq.tail })) ∧
    ((i = .unlisten ∧ rx = 0x3F ∨ i = .untalk ∧ rx = 0x5F) → exec i s = .next { s with
      addr := { s.addr with primary := rx }
      drv := { s.drv with data := true }
      seq := s.seq.tail })

/-- 0x00 before the primary is acknowledged, calls no device and is not recorded, and the next non-zero byte becomes the
primary (30_encoding R342). -/
def Obligations.NullPrimaryIsAcknowledgedNotRecorded : Prop :=
  ∀ s : State, s.fl.atnActive = true → s.addr.primary = 0x00 → ∃ t, exec .nullPrimary s = .next t ∧
    t = { s with drv := { s.drv with data := true }, seq := s.seq.tail } ∧
    ∀ (rx : Byte) (eoi : Bool) (i : Instr) (u : State), rx ≠ 0x00 → decode .pri [rx] = .ok i → u.fl = t.fl →
      u.addr = t.addr → rxByte rx eoi u = .next (u.push [.decode (.primary rx)]) ∧
      ∃ v, exec i u = .next v ∧ v.addr.primary = rx

/-- A reserved primary, as the first non-zero byte under ATN, is recorded and not acknowledged (30_encoding R340,
41_iec_core R520, R522); at the ATN rise it is "not for us": both lines are released and the mode is `IDLE` (41_iec_core
R512, R517). -/
def Obligations.ReservedPrimaryIsNotAcknowledged : Prop :=
  ∀ (s : State) (i : Instr) (rx : Byte), decode .pri [rx] = .ok i →
    (0x01 ≤ rx ∧ rx ≤ 0x1F ∨ 0x60 ≤ rx) →
    (s.fl.atnActive = true → s.addr.primary = 0x00 →
      exec i s = .next { s with addr := { s.addr with primary := rx }, seq := s.seq.tail }) ∧
    (s.fl.atnActive = false → exec i s = .next { s with
      sel := { s.sel with current := none }
      bus := { s.bus with mode := .idle }
      drv := { s.drv with clk := false, data := false }
      seq := s.seq.tail })

/-- The byte after the primary is captured whatever secondary it is: for a selected device it is passed on unchanged,
after UNLISTEN or UNTALK it is acknowledged, and for another device it is not (41_iec_core R520, R521, R522,
30_encoding R341; that 60_exceptions R1002's first bullet does not speak of the last is the reading of assumption log 33). The nine secondaries: `CLOSE15_IGNORED`, `DATA`, `CLOSE`, `OPEN` and the five reserved ones. -/
def Obligations.SecondaryIsCapturedUnchanged : Prop :=
  ∀ (s : State) (i : Instr) (b : Byte), decode .sec [b] = .ok i → s.fl.atnActive = true → s.addr.primary ≠ 0x00 →
    s.addr.secValid = false →
    (∀ k, s.sel.current = some k → exec i s = .next { s with
      addr := { s.addr with secondary := b, secValid := true }
      seq := .yield (.call (.secondaryAddress k b)) :: .rx (.ack b false true) :: s.seq.tail }) ∧
    (s.sel.current = none → s.addr.primary = 0x3F ∨ s.addr.primary = 0x5F → exec i s = .next { s with
      addr := { s.addr with secondary := b, secValid := true }
      drv := { s.drv with data := true }
      seq := s.seq.tail }) ∧
    (s.sel.current = none → s.addr.primary ≠ 0x3F → s.addr.primary ≠ 0x5F → exec i s = .next { s with
      addr := { s.addr with secondary := b, secValid := true }
      seq := s.seq.tail })

/-- A new non-zero secondary for a device with DolphinDOS enabled is acknowledged, and the cable is then probed;
for any other it is only acknowledged (41_iec_core R530 R7, R535, 43_dolphindos R702). -/
def Obligations.NewSecondaryIsAcknowledgedThenProbed : Prop :=
  ∀ (s : State) (b : Byte) (k : Nat) (rest : List Pos), s.seq = .rx (.ack b false true) :: rest →
    s.fl.atnActive = true → s.addr.secValid = true → s.addr.secondary = b → s.sel.current = some k →
    (b ≠ 0x00 → dolphinOn s k = true → ∃ t, step s = .next t ∧ t.drv = { s.drv with data := true } ∧
      t.seq = .yield (.waitHr .low 0 (now s) (readLine s .hr) false) :: .rx (.probe k) :: .dol .returned :: rest) ∧
    (b = 0x00 ∨ dolphinOn s k = false →
      step s = .next { s with drv := { s.drv with data := true }, seq := rest })

/-! ## The ATN rise (41_iec_core R512 to R519) -/

/-- At the ATN rise, LISTEN with any captured secondary but 0xEF, or with none, which stands for 0x00, gives the selected
device the listen role: its registers, the command capture on 0x6F, the pre-buffer on 0x61, and `listen(sec)`, after which
the mode is `LISTENING`; another listener gets `unlisten()` first (41_iec_core R512, R513). Held bytes are flushed before,
unless the listen is the holding device's on 0x61 or 0x6F, and after the flush the listen goes on as without them
(43_dolphindos R705). -/
def Obligations.ListenGivesTheListenRole : Prop :=
  ∀ (s : State) (i : Instr) (b : Byte) (a : BitVec 5) (k : Nat),
    (decode .sec [b] = .ok i ∧ b ≠ 0xEF ∧ decode .pri [s.addr.primary] = .ok (.listen a) ∨
      i = .listen a ∧ s.addr.secValid = false ∧ b = 0x00) →
    s.fl.atnActive = false → s.sel.current = some k →
    (s.dol.preN ≠ 0 → ¬ (k = s.dol.preDev ∧ (b = 0x61 ∨ b = 0x6F)) →
      exec i s = dolFlush [.role (.listenFlushed k b)] { s with seq := s.seq.tail }) ∧
    (s.dol.preN = 0 ∨ k = s.dol.preDev ∧ (b = 0x61 ∨ b = 0x6F) →
      (s.sel.listener = none ∨ s.sel.listener = some k → ∃ t, exec i s = .next t ∧
        t.sel = { s.sel with listener := some k, listenerSec := b } ∧
        t.cmd = { s.cmd with
          len := if b = 0x6F then 0 else s.cmd.len
          overflow := if b = 0x6F then false else s.cmd.overflow } ∧
        (t.dol.preArm = true ↔ b = 0x61 ∧ s.flag k .dolphinDetected = true) ∧
        t.seq = .yield (.call (.listen k b)) :: .role .listenDone :: s.seq.tail ∧
        t = { s with sel := t.sel, cmd := t.cmd, dol := { s.dol with preArm := t.dol.preArm }, seq := t.seq }) ∧
      (∀ j, s.sel.listener = some j → j ≠ k → exec i s = .next { s with
        seq := .yield (.call (.unlisten j)) :: .role (.listenFree k b) :: s.seq.tail })) ∧
    ∀ (u : State) (rest : List Pos),
      (u.seq = .role .listenDone :: rest →
        step u = .next { u with seq := rest, bus := { u.bus with mode := .listening } }) ∧
      (u.fl.atnActive = false → u.sel.current = some k → u.addr = s.addr → u.dol.preN = 0 →
        (u.seq = .role (.listenFlushed k b) :: rest → step u = exec i { u with seq := .decode .rise :: rest }) ∧
        (u.seq = .role (.listenFree k b) :: rest →
          step u = exec i { u with seq := .decode .rise :: rest, sel := { u.sel with listener := none } }))

/-- At the ATN rise, TALK with any captured secondary but 0xEF, or with none, which stands for 0x00, gives the selected
device the talk role: a JiffyDOS device talked to on 0x61 enters block mode on 0x60, and the capture of a DolphinDOS device
starts again; another talker gets `untalk()` first. After `talk(sec)` the mode is `TALKING`, and when CLK is high the
engine drives CLK low and releases DATA (41_iec_core R512, R514, R519, 42_jiffydos R608). Held bytes are flushed before,
and after the flush the talk goes on as without them (43_dolphindos R705). -/
def Obligations.TalkGivesTheTalkRole : Prop :=
  ∀ (s : State) (i : Instr) (b : Byte) (a : BitVec 5) (k : Nat),
    (decode .sec [b] = .ok i ∧ b ≠ 0xEF ∧ decode .pri [s.addr.primary] = .ok (.talk a) ∨
      i = .talk a ∧ s.addr.secValid = false ∧ b = 0x00) →
    s.fl.atnActive = false → s.sel.current = some k →
    (s.dol.preN ≠ 0 → exec i s = dolFlush [.role (.talkFlushed k b)] { s with seq := s.seq.tail }) ∧
    (s.dol.preN = 0 →
      (s.sel.talker = none ∨ s.sel.talker = some k → ∃ t sec, exec i s = .next t ∧
        (s.flag k .jiffyDetected = true ∧ b = 0x61 → sec = 0x60 ∧ t.dev = (s.setFlag k .jiffyBlock).dev) ∧
        (¬ (s.flag k .jiffyDetected = true ∧ b = 0x61) → sec = b ∧ t.dev = s.dev) ∧
        t.sel = { s.sel with talker := some k, talkerSec := sec } ∧ t.talk = { s.talk with txFirst := true } ∧
        t.dol = { s.dol with capN := if s.flag k .dolphinDetected then 0 else s.dol.capN } ∧
        t.seq = .yield (.call (.talk k sec)) :: .role .talkCalled :: s.seq.tail ∧
        t = { s with dev := t.dev, sel := t.sel, talk := t.talk, dol := t.dol, seq := t.seq }) ∧
      (∀ j, s.sel.talker = some j → j ≠ k → exec i s = .next { s with
        seq := .yield (.call (.untalk j)) :: .role (.talkFree k b) :: s.seq.tail })) ∧
    ∀ (u : State) (rest : List Pos),
      (u.seq = .role .talkCalled :: rest → step u = .next { u with
        bus := { u.bus with mode := .talking }
        seq := .yield (.waitFor .clk .high 0 (now u) true) :: .role .reverse :: rest }) ∧
      (u.seq = .role .reverse :: rest →
        step u = .next { u with seq := rest, drv := { u.drv with clk := true, data := false } }) ∧
      (u.fl.atnActive = false → u.sel.current = some k → u.addr = s.addr → u.dol.preN = 0 →
        (u.seq = .role (.talkFlushed k b) :: rest → step u = exec i { u with seq := .decode .rise :: rest }) ∧
        (u.seq = .role (.talkFree k b) :: rest →
          step u = exec i { u with seq := .decode .rise :: rest, sel := { u.sel with talker := none } }))

/-- After `begin()`, in every step from every state: a step that changes `primary` or `secondary` ends under ATN, or is a
RESET's, which leaves 0x00; a device becomes the selected one only by a LISTEN or TALK under ATN that its address matched; a
step that enters `IDLE` releases both lines and leaves no device selected; and the other modes are entered by the listen
role, by the talk role and by the ATN fall alone (10_state R101, R103 items 2 to 4, R115, R116, R120). It does not say which
step under ATN writes `primary` or `secondary`, when `current_device` is cleared, or what changes `sec_valid` and the
listener's and the talker's registers: the statements on the single commands do. -/
def Obligations.ModeAndSelectionChangeOnlyByTheirRules : Prop :=
  ∀ s t : State, Ready s → step s = .next t →
    (t.addr.primary ≠ s.addr.primary ∨ t.addr.secondary ≠ s.addr.secondary →
      t.fl.atnActive = true ∨ t.addr = ⟨0x00, 0x00, false⟩) ∧
    (∀ k, t.sel.current = some k → s.sel.current = some k ∨ s.fl.atnActive = true ∧ ∃ a : BitVec 5,
      find s a = some k ∧ (t.addr.primary = 0x20 ||| a.setWidth 8 ∨ t.addr.primary = 0x40 ||| a.setWidth 8)) ∧
    (t.bus.mode = .idle → s.bus.mode = .idle ∨
      t.drv.clk = false ∧ t.drv.data = false ∧ t.sel.current = none) ∧
    (t.bus.mode = .listening → s.bus.mode = .listening ∨ s.seq.head? = some (.role .listenDone)) ∧
    (t.bus.mode = .talking → s.bus.mode = .talking ∨ s.seq.head? = some (.role .talkCalled)) ∧
    (t.bus.mode = .underAtn → s.bus.mode = .underAtn ∨ t.fl.atnActive = true ∧ t.sel.current = none)

/-- At the ATN rise, UNLISTEN runs a captured channel-15 command, then calls `unlisten()`, then ends the role
(41_iec_core R515); UNTALK calls `untalk()` on the talker and then ends the role (R516). Without a listener or a talker
they only go to `IDLE`. A secondary captured after them changes nothing (R512). Bytes held by a SAVE stay held
(43_dolphindos R705; that UNLISTEN is no flush point, although decision D27 lists it, is the reading of assumption log
31). -/
def Obligations.UnlistenAndUntalkEndTheirRoles : Prop :=
  ∀ (s : State) (i : Instr) (rest : List Pos),
    (s.fl.atnActive = false →
      (i = .unlisten ∨ s.addr.primary = 0x3F ∧ ∃ b, decode .sec [b] = .ok i ∧ (b ≠ 0xEF ∨ s.sel.current = none)) →
      (s.sel.listener = none → exec i s = .next { s with
        dol := { s.dol with preArm := false }
        sel := { s.sel with current := none }
        bus := { s.bus with mode := .idle }
        drv := { s.drv with clk := false, data := false }
        seq := s.seq.tail }) ∧
      (∀ k, s.sel.listener = some k → s.sel.listenerSec = 0x6F → 0 < s.cmd.len →
        exec i s = .next { s with seq := .decode (.cmd15 k) :: .role (.unlisten k) :: s.seq.tail }) ∧
      (∀ k, s.sel.listener = some k → (s.sel.listenerSec ≠ 0x6F ∨ s.cmd.len = 0) →
        exec i s = .next { s with
          seq := .yield (.call (.unlisten k)) :: .role .unlistenDone :: s.seq.tail })) ∧
    (s.fl.atnActive = false →
      (i = .untalk ∨ s.addr.primary = 0x5F ∧ ∃ b, decode .sec [b] = .ok i ∧ (b ≠ 0xEF ∨ s.sel.current = none)) →
      (s.sel.talker = none → exec i s = .next { s with
        sel := { s.sel with current := none }
        bus := { s.bus with mode := .idle }
        drv := { s.drv with clk := false, data := false }
        seq := s.seq.tail }) ∧
      (∀ k, s.sel.talker = some k →
        exec i s = .next { s with seq := .yield (.call (.untalk k)) :: .role .untalkDone :: s.seq.tail })) ∧
    (∀ k, s.seq = .role (.unlisten k) :: rest →
      step s = .next { s with seq := .yield (.call (.unlisten k)) :: .role .unlistenDone :: rest }) ∧
    (s.seq = .role .unlistenDone :: rest → step s = .next { s with
      dol := { s.dol with preArm := false }
      sel := { s.sel with listener := none, listenerSec := 0x00, current := none }
      bus := { s.bus with mode := .idle }
      drv := { s.drv with clk := false, data := false }
      seq := rest }) ∧
    (s.seq = .role .untalkDone :: rest → step s = .next { s with
      sel := { s.sel with talker := none, talkerSec := 0x00, current := none }
      bus := { s.bus with mode := .idle }
      drv := { s.drv with clk := false, data := false }
      seq := rest })

/-- At the ATN rise, a transaction that is not for us releases both lines and goes to `IDLE`, and keeps both roles
(41_iec_core R512, R517): a LISTEN or TALK that selected no device, a reserved primary, and no primary at all, each
with a captured secondary, 0xEF among them, or without one. -/
def Obligations.NotForUsReleasesTheLinesAndKeepsTheRoles : Prop :=
  ∀ (s : State) (i : Instr), s.fl.atnActive = false →
    ((s.sel.current = none ∧ ((∃ a, i = .listen a) ∨ ∃ a, i = .talk a)) ∨ i = .nullPrimary ∨
      (∃ low, i = .reservedPrimaryLow low) ∨ (∃ low, i = .reservedPrimary60 low) ∨ (∃ low, i = .reservedPrimary80 low) ∨
      (∃ b, decode .sec [b] = .ok i) ∧
        (s.sel.current = none ∧ (∃ a, decode .pri [s.addr.primary] = .ok (.listen a) ∨
            decode .pri [s.addr.primary] = .ok (.talk a)) ∨
          s.addr.primary ≤ 0x1F ∨ 0x60 ≤ s.addr.primary)) →
    exec i s = .next { s with
      sel := { s.sel with current := none }
      bus := { s.bus with mode := .idle }
      drv := { s.drv with clk := false, data := false }
      seq := s.seq.tail }

/-- At the ATN rise of a matched LISTEN or TALK, a secondary of 0xEF makes no device call and changes no role
(41_iec_core R518). -/
def Obligations.CloseOfChannel15IsIgnored : Prop :=
  ∀ (s : State) (k : Nat), s.fl.atnActive = false → s.sel.current = some k →
    exec .close15Ignored s = .next { s with
      sel := { s.sel with current := none }
      bus := { s.bus with mode := .idle }
      drv := { s.drv with clk := false, data := false }
      seq := s.seq.tail }

/-- What a primary or a secondary leaves alone, in every form: every byte of both memories, the flags register, the
Epyx state, the configuration, the registry, the outside and the working values; of the drivers it changes CLK and DATA
only, of a table entry the flag `JiffyBlock` only. A primary leaves the captured secondary, a secondary the captured
primary. -/
def Obligations.AddressingLeavesTheRestAlone : Prop :=
  ∀ (s t : State) (i : Instr), (formatOf i = .pri ∨ formatOf i = .sec) → exec i s = .next t →
    SameMemory s t ∧ SameFixed s t ∧ t.fl = s.fl ∧ t.epyx = s.epyx ∧ t.env = s.env ∧ t.work = s.work ∧
    t.drv = { s.drv with clk := t.drv.clk, data := t.drv.data } ∧
    t.talk.lastTxTime = s.talk.lastTxTime ∧ t.dol.preDev = s.dol.preDev ∧ t.dol.preEoi = s.dol.preEoi ∧
    t.dol.reqTime = s.dol.reqTime ∧ tableOf t = tableOf s ∧
    (∀ (k : Nat) (f : ProtoFlag), f ≠ .jiffyBlock → t.flag k f = s.flag k f) ∧
    (formatOf i = .pri → t.addr.secondary = s.addr.secondary ∧ t.addr.secValid = s.addr.secValid) ∧
    (formatOf i = .sec → t.addr.primary = s.addr.primary)

/-! ## Channel-15 commands -/

/-- `XQ` and `XZ` with the burst enabled set the request flag and the request time, and `XZ` discards the held bytes;
otherwise they fall back to byte mode. Both reset the Epyx count where `FEAT_EPYX` is present, and else leave it
(43_dolphindos R708, R710, 41_iec_core R525, 44_epyx R800); that they reset it also for a device without DolphinDOS is the
reading of assumption log 30. -/
def Obligations.BurstRequestsNeedTheEnabledBurst : Prop :=
  ∀ (s : State) (k : Nat) (rest : List Pos) (e : EpyxRegs), s.seq = .decode (.cmd15 k) :: rest →
    e = (if s.cfg.featEpyx then { s.epyx with ctr := 0, ver := none } else s.epyx) →
    ((dolphinOn s k = true ∧ s.flag k .dolphinBurstEnabled = true) →
      exec .xq s = .next { s with
        seq := rest
        dev := (s.setFlag k .dolphinBurstTx).dev
        dol := { s.dol with reqTime := s.env.micros }
        epyx := e } ∧
      exec .xz s = .next { s with
        seq := rest
        dev := (s.setFlag k .dolphinBurstRx).dev
        dol := { s.dol with preN := 0, preArm := false, reqTime := s.env.micros }
        epyx := e }) ∧
    (¬ (dolphinOn s k = true ∧ s.flag k .dolphinBurstEnabled = true) →
      exec .xq s = .next { s with seq := rest, epyx := e } ∧ exec .xz s = .next { s with seq := rest, epyx := e })

/-- `XF+` sets and `XF-` clears `DolphinBurstEnabled` of a valid device with DolphinDOS; every other flag of every
device keeps its value, and an ATN fall keeps the bit (43_dolphindos R709, 10_state R132). -/
def Obligations.BurstEnableFollowsXfPlusAndXfMinus : Prop :=
  ∀ (s : State) (k : Nat) (rest : List Pos), s.seq = .decode (.cmd15 k) :: rest → k < s.dev.length →
    dolphinOn s k = true → ∃ t u, exec .xfPlus s = .next t ∧ exec .xfMinus s = .next u ∧
      t.flag k .dolphinBurstEnabled = true ∧ u.flag k .dolphinBurstEnabled = false ∧
      (atnFall t).flag k .dolphinBurstEnabled = true ∧
      (∀ j f, j ≠ k ∨ f ≠ .dolphinBurstEnabled → t.flag j f = s.flag j f ∧ u.flag j f = s.flag j f) ∧
      t = { s with seq := rest, dev := t.dev, epyx := t.epyx } ∧
      u = { s with seq := rest, dev := u.dev, epyx := u.epyx }

/-- `M-W`: the write counter (44_epyx R802). A complete write that is the second one of the version under way, on the
same device, counts 2; otherwise the least version whose first write it is counts 1 on this device, and a write that
matches none, is incomplete, or goes to a device without Epyx counts 0. Without `FEAT_EPYX` nothing changes (R800). -/
def Obligations.MemoryWritesAreCountedAgainstTheSignatures : Prop :=
  ∀ (s : State) (k : Nat) (rest : List Pos) (addr : BitVec 16) (len : Byte) (d : List Byte) (w : WriteMark),
    s.seq = .decode (.cmd15 k) :: rest → w = ⟨addr, len, sumBytes d⟩ →
    ∃ e, exec (.memWrite addr len d) s = .next { s with seq := rest, epyx := e } ∧ e.sum = s.epyx.sum ∧
      (s.cfg.featEpyx = false → e = s.epyx) ∧
      (s.cfg.featEpyx = true → s.flag k .epyxEnabled = false ∨ d.length < len.toNat →
        e.ctr = 0 ∧ e.ver = none ∧ e.dev = s.epyx.dev) ∧
      (s.cfg.featEpyx = true → s.flag k .epyxEnabled = true → len.toNat ≤ d.length →
        (∀ v, s.epyx.ctr = 1 → s.epyx.dev = k → s.epyx.ver = some v → (signature s.cfg v).second = w →
          e.ctr = 2 ∧ e.ver = some v ∧ e.dev = k) ∧
        (¬ (s.epyx.ctr = 1 ∧ s.epyx.dev = k ∧ ∃ v, s.epyx.ver = some v ∧ (signature s.cfg v).second = w) →
          (∀ v, versionStarting s.cfg w = some v → e.ctr = 1 ∧ e.ver = some v ∧ e.dev = k) ∧
          (versionStarting s.cfg w = none → e.ctr = 0 ∧ e.ver = none ∧ e.dev = s.epyx.dev)))

/-- `M-E`: the header flag is set exactly after two matched writes to this device and at the version's address; the
count is reset in any case (44_epyx R803, R804), and without `FEAT_EPYX` nothing changes (R800). Step S4 starts the header receive as soon as DATA is high (45_scheduler
R904, 44_epyx R805); that it may do so in the tick of the ATN rise is the reading of assumption log 34. -/
def Obligations.MemoryExecuteSetsTheHeaderFlag : Prop :=
  ∀ (s : State) (k : Nat) (rest : List Pos) (addr : BitVec 16), s.seq = .decode (.cmd15 k) :: rest →
    (s.cfg.featEpyx = false → exec (.memExecute addr) s = .next { s with seq := rest }) ∧
    (∀ v, s.cfg.featEpyx = true → s.flag k .epyxEnabled = true → s.epyx.ctr = 2 → s.epyx.dev = k → s.epyx.ver = some v →
      addr = (signature s.cfg v).exec →
      exec (.memExecute addr) s = .next { s with
        seq := rest
        dev := (s.setFlag k .epyxHeader).dev
        epyx := { s.epyx with ctr := 0, ver := none } }) ∧
    (s.cfg.featEpyx = true → (s.flag k .epyxEnabled = false ∨ s.epyx.ctr ≠ 2 ∨ s.epyx.dev ≠ k ∨
        ∀ v, s.epyx.ver = some v → addr ≠ (signature s.cfg v).exec) →
      exec (.memExecute addr) s = .next { s with seq := rest, epyx := { s.epyx with ctr := 0, ver := none } }) ∧
    ∀ (u : State) (more : List Pos), u.seq = .tick .s4 :: more → u.cfg.featEpyx = true → u.bus.mode = .idle →
      leastWith u [.epyxHeader, .epyxLoad, .epyxSectorOp] = some k → u.flag k .epyxHeader = true →
      (readLine u .data = .low → step u = .next { u with seq := .tick .s5 :: more }) ∧
      (readLine u .data = .high → step u = .next { u with
        dev := (u.clearFlag k .epyxHeader).dev
        drv := { u.drv with clk := true }
        seq := .yield (.waitFor .data .low 0 (now u) true) :: .epyx (.headerReady k) :: .tick .s5 :: more })

/-- What a channel-15 command leaves alone: every byte of both memories and everything but the sequencer, the table's
flags, the DolphinDOS request, and the Epyx state; of the flags only the two requests, `DolphinBurstEnabled` and
`EpyxHeader`, and those of its device only. -/
def Obligations.ChannelCommandsLeaveTheRestAlone : Prop :=
  ∀ (s t : State) (i : Instr) (k : Nat) (rest : List Pos), formatOf i = .cmd15 → s.seq = .decode (.cmd15 k) :: rest →
    exec i s = .next t →
    t = { s with seq := rest, dev := t.dev, dol := t.dol, epyx := t.epyx } ∧ SameMemory s t ∧
    tableOf t = tableOf s ∧ t.dol.capN = s.dol.capN ∧ t.dol.preDev = s.dol.preDev ∧ t.dol.preEoi = s.dol.preEoi ∧
    t.epyx.sum = s.epyx.sum ∧
    ∀ (j : Nat) (f : ProtoFlag),
      (j ≠ k ∨ (f ≠ .dolphinBurstEnabled ∧ f ≠ .dolphinBurstTx ∧ f ≠ .dolphinBurstRx ∧ f ≠ .epyxHeader)) →
      t.flag j f = s.flag j f

/-! ## Epyx uploads -/

/-- The three load sums go on to the filename: masked, and waiting for the first CLK toggle of the length byte; the
three sector sums, with sector operations, are kept and set `EpyxSectorOp` (44_epyx R806, R808, R809). -/
def Obligations.KnownSumsStartTheirProtocol : Prop :=
  ∀ (s : State) (i : Instr) (k : Nat) (sum : Byte) (rest : List Pos), s.seq = .decode (.sum k sum) :: rest →
    ((i = .epyxLoadV1 ∨ i = .epyxLoadV2 ∨ i = .epyxLoadV3) → s.fl.irqMasked = false →
      ∃ lvl, lvl ≠ readLine s .clk ∧ exec i s = .next { s with
        fl := { s.fl with irqMasked := true }
        seq := .yield (.waitFor .clk lvl 0 (now s) true) :: .epyx (.rxBit 0 0x00 lvl) ::
          .epyx (.nameLen k) :: rest }) ∧
    ((i = .epyxSector0B ∧ sum = 0x0B ∨ i = .epyxSectorB8 ∧ sum = 0xB8 ∨ i = .epyxSectorBA ∧ sum = 0xBA) →
      s.cfg.sectorOps = true → exec i s = .next { s with
        seq := rest
        dev := (s.setFlag k .epyxSectorOp).dev
        epyx := { s.epyx with sum := sum } })

/-- An unknown sum, and a sector sum without sector operations, releases both lines and goes on at S7; nothing else
changes (44_epyx R808, R818, 60_exceptions R1007). -/
def Obligations.UnknownSumReleasesTheLinesOnly : Prop :=
  ∀ (s : State) (i : Instr) (k : Nat) (sum : Byte) (rest : List Pos),
    s.seq = .decode (.sum k sum) :: .tick .s5 :: rest → s.fl.irqMasked = false → s.drv.parOutMode = false →
    (i = .epyxUnknownSum sum ∨
      s.cfg.sectorOps = false ∧ (i = .epyxSector0B ∨ i = .epyxSectorB8 ∨ i = .epyxSectorBA)) →
    exec i s = .next { s with seq := .tick .s7 :: rest, drv := { s.drv with clk := false, data := false } }

/-- The filename length: held bytes are flushed first, and then it goes on as without them (43_dolphindos R705); the
buffer is claimed, and the first name byte is received; an empty name opens channel 0 at once (44_epyx R809, R810). -/
def Obligations.FilenameLengthClaimsTheBuffer : Prop :=
  ∀ (s : State) (k : Nat) (len : Byte) (rest : List Pos), s.seq = .decode (.header k len) :: rest →
    s.fl.irqMasked = false →
    (s.dol.preN ≠ 0 → exec (.epyxHdr len) s = dolFlush [.epyx (.nameClaimed k len)] { s with seq := rest }) ∧
    (s.dol.preN = 0 → len ≠ 0 → ∃ lvl, lvl ≠ readLine s .clk ∧ exec (.epyxHdr len) s = .next { s with
      fl := { s.fl with irqMasked := true }
      dol := { s.dol with capN := 0 }
      seq := .yield (.waitFor .clk lvl 0 (now s) true) :: .epyx (.rxBit 0 0x00 lvl) ::
        .epyx (.nameByte k len 0) :: rest }) ∧
    (s.dol.preN = 0 → len = 0 → exec (.epyxHdr len) s = .next { s with
      dol := { s.dol with capN := 0 }
      seq := .yield (.call (.listen k 0xF0)) :: .yield (.call (.unlisten k)) :: .yield (.call (.talk k 0x60)) ::
        .epyx (.opened k) :: rest }) ∧
    ∀ u : State, u.seq = .epyx (.nameClaimed k len) :: rest → u.dol.preN = 0 →
      step u = exec (.epyxHdr len) { u with seq := .decode (.header k len) :: rest }

/-- What a sum or a filename length leaves alone: every byte of both memories, the addressing and selection registers,
the captured command, the talk timing, the configuration, the registry and the outside; of the table's flags only
`EpyxSectorOp` of its device. With interrupts unmasked, as they are at both decode points. -/
def Obligations.UploadsLeaveTheRestAlone : Prop :=
  ∀ (s t : State) (i : Instr), (formatOf i = .epyxSum ∨ formatOf i = .epyxHdr) → s.fl.irqMasked = false →
    exec i s = .next t →
    SameMemory s t ∧ SameFixed s t ∧ t.env = s.env ∧ t.work = s.work ∧ t.addr = s.addr ∧ t.sel = s.sel ∧
    t.cmd = s.cmd ∧ t.talk = s.talk ∧ t.fl = { s.fl with irqMasked := t.fl.irqMasked } ∧
    t.bus.mode = s.bus.mode ∧ tableOf t = tableOf s ∧
    ∀ (k : Nat) (f : ProtoFlag), (siteDevice s ≠ some k ∨ f ≠ .epyxSectorOp) → t.flag k f = s.flag k f

/-- Name byte i is stored at index len-1-i, so that the name stands in its normal order, and no other byte changes; the
last byte, at index 0, is followed by the calls that open channel 0 with the name, its last byte with EOI, and then the
load is on. A name longer than `buf` is received and dropped, and both lines are released (44_epyx R809, R810). -/
def Obligations.FilenameArrivesInReverse : Prop :=
  ∀ (s : State) (k : Nat) (len : Byte) (i : Nat) (rest : List Pos),
    (s.seq = .epyx (.nameByte k len i) :: rest → s.fl.irqMasked = false → i < len.toNat →
      (i + 1 < len.toNat → ∃ t lvl, lvl ≠ readLine s .clk ∧ step s = .next t ∧
        (len.toNat ≤ s.cfg.bufSize →
          ∀ a, memGet t.buf a = if a = len.toNat - 1 - i then some s.work.byte else memGet s.buf a) ∧
        (s.cfg.bufSize < len.toNat → t.buf = s.buf) ∧
        t = { s with
          buf := t.buf
          fl := { s.fl with irqMasked := true }
          seq := .yield (.waitFor .clk lvl 0 (now s) true) :: .epyx (.rxBit 0 0x00 lvl) ::
            .epyx (.nameByte k len (i + 1)) :: rest }) ∧
      (i + 1 = len.toNat → s.cfg.bufSize < len.toNat →
        step s = .next { s with seq := rest, drv := { s.drv with clk := false, data := false } }) ∧
      ∀ (init : List Byte) (last : Byte), i + 1 = len.toNat → len.toNat ≤ s.cfg.bufSize →
        (init ++ [last]).length = len.toNat →
        (∀ a < len.toNat, (init ++ [last])[a]? = if a = 0 then some s.work.byte else memGet s.buf a) →
        ∃ t, step s = .next t ∧ (∀ a, memGet t.buf a = if a = 0 then some s.work.byte else memGet s.buf a) ∧
          t = { s with
            buf := t.buf
            seq := .yield (.call (.listen k 0xF0)) :: (init.map (fun c => .yield (.call (.write k c false))) ++
              .yield (.call (.write k last true)) :: .yield (.call (.unlisten k)) :: .yield (.call (.talk k 0x60)) ::
                .epyx (.opened k) :: rest) }) ∧
    (s.seq = .epyx (.opened k) :: rest → step s = .next { s with seq := rest, dev := (s.setFlag k .epyxLoad).dev })

/-- One CLK toggle of an Epyx byte: DATA low is a 1 at the i-th sample's place; the eighth unmasks and returns the
byte (44_epyx R806). -/
def Obligations.EpyxSamplesDataInverted : Prop :=
  ∀ (s : State) (i : Nat) (v : Byte) (lvl : Level) (rest : List Pos), s.seq = .epyx (.rxBit i v lvl) :: rest → i < 8 →
    s.fl.irqPending = false → epyxRxPlace s.cfg i < 8 → v.getLsbD (epyxRxPlace s.cfg i) = false →
    ∃ v' : Byte,
      (∀ j < 8, v'.getLsbD j =
        if j = epyxRxPlace s.cfg i then decide (readLine s .data = .low) else v.getLsbD j) ∧
      (i < 7 → ∃ lvl', lvl' ≠ lvl ∧ step s = .next { s with
        seq := .yield (.waitFor .clk lvl' 0 (now s) true) :: .epyx (.rxBit (i + 1) v' lvl') :: rest }) ∧
      (i = 7 → step s = .next { s with
        seq := rest, fl := { s.fl with irqMasked := false }, work := { s.work with byte := v' } })

/-- The heartbeat: DATA high ends it, CLK is released, and the command's first byte, the track, is received, masked and
waiting for the first CLK toggle; DATA low pulses CLK low for half a period and releases it for the other half, which is one
iteration; after `HEARTBEAT_MAX` iterations the sector operation ends with a timeout (44_epyx R806, R814, R815). -/
def Obligations.HeartbeatEndsWhenTheHostIsGone : Prop :=
  (∀ (s : State) (k i : Nat) (rest : List Pos), s.seq = .epyx (.beat k i) :: .tick .s5 :: rest →
    s.fl.irqMasked = false → s.drv.parOutMode = false →
    (s.cfg.heartbeatMax ≤ i → step s = .next { s with
      seq := .tick .s7 :: rest
      dev := (s.clearFlag k .epyxSectorOp).dev
      drv := { s.drv with clk := false, data := false }
      bus := { s.bus with done := true } }) ∧
    (i < s.cfg.heartbeatMax → readLine s .data = .low → step s = .next { s with
      drv := { s.drv with clk := true }
      seq := .yield (.waitUntil s.cfg.tHeartbeatPeriod (now s)) :: .epyx (.beatLow k i) :: .tick .s5 :: rest }) ∧
    (i < s.cfg.heartbeatMax → readLine s .data = .high →
      ∃ t lvl, step s = .next t ∧ lvl ≠ readLine t .clk ∧ t = { s with
        drv := { s.drv with clk := false }
        fl := { s.fl with irqMasked := true }
        seq := .yield (.waitFor .clk lvl 0 (now s) true) :: .epyx (.rxBit 0 0x00 lvl) :: .epyx (.sectorTrack k) ::
          .tick .s5 :: rest })) ∧
  ∀ (s : State) (k i : Nat) (rest : List Pos), s.seq = .epyx (.beatLow k i) :: rest → step s = .next { s with
    drv := { s.drv with clk := false }
    seq := .yield (.waitUntil s.cfg.tHeartbeatPeriod (now s)) :: .epyx (.beat k (i + 1)) :: rest }

/-! ## The standard byte (41_iec_core R530, R540) -/

/-- Without EOI, a byte under ATN included, the receive goes on to the bits; a timeout outside ATN is the sender's EOI,
answered with a DATA pulse; under ATN a timeout only waits on (41_iec_core R530 R3, R532, R536). -/
def Obligations.EoiIsATimeoutOutsideAtn : Prop :=
  ∀ (s : State) (rest : List Pos),
    (s.seq = .rx .eoiTest :: rest → s.work.wait = .reached →
      step s = .next { s with seq := .rx (.bit 0 0x00 false) :: rest }) ∧
    (s.seq = .rx .eoiTest :: rest → s.work.wait = .timeout → s.fl.atnActive = true → step s = .next { s with
      seq := .yield (.waitFor .clk .low 0 (now s) true) :: .rx (.bit 0 0x00 false) :: rest }) ∧
    (s.seq = .rx .eoiTest :: rest → s.work.wait = .timeout → s.fl.atnActive = false → step s = .next { s with
      drv := { s.drv with data := true }
      seq := .yield (.waitUs s.cfg.tIecEoiPulse (now s) false) :: .pulseEnd .data true :: .rx .eoiPulsed :: rest }) ∧
    (s.seq = .rx .eoiPulsed :: rest → step s = .next { s with
      seq := .yield (.waitFor .clk .low 0 (now s) true) :: .rx (.bit 0 0x00 true) :: rest })

/-- The bits come least significant first: sample i puts the level of DATA into bit i and changes no other bit, and
after the eighth the byte is complete (41_iec_core R533, 30_encoding R320). -/
def Obligations.ReceivedBitsArriveLsbFirst : Prop :=
  ∀ (s : State) (i : Nat) (rx : Byte) (eoi : Bool) (rest : List Pos), s.seq = .rx (.sample i rx eoi) :: rest → i < 8 →
    rx.getLsbD i = false → ∃ rx' : Byte,
      (∀ j < 8, rx'.getLsbD j = if j = i then decide (readLine s .data = .high) else rx.getLsbD j) ∧
      step s = .next { s with
        seq := .yield (.waitFor .clk .low 0 (now s) true) ::
          .rx (if i = 7 then .byte rx' eoi else .bit (i + 1) rx' eoi) :: rest }

/-- A data byte is acknowledged with DATA low and then handed to the listener with its EOI; on channel 15 it is also
captured, or overflows the capture (41_iec_core R524, R526, R534). Bytes held for the listener of a SAVE are flushed
before (43_dolphindos R705). -/
def Obligations.DataBytesAreAcknowledgedThenDelivered : Prop :=
  ∀ (s : State) (rx : Byte) (eoi : Bool) (k : Nat) (rest : List Pos), s.seq = .rx (.byte rx eoi) :: rest →
    s.fl.atnActive = false → s.sel.current = some k →
    (0 < s.dol.preN ∧ s.dol.preDev = k ∧ s.sel.listener = some k ∧ s.sel.listenerSec = 0x61 →
      step s = dolFlush [.yield (.call (.write k rx eoi))] { s with drv := { s.drv with data := true }, seq := rest }) ∧
    (¬ (0 < s.dol.preN ∧ s.dol.preDev = k ∧ s.sel.listener = some k ∧ s.sel.listenerSec = 0x61) →
      ∃ t, step s = .next t ∧ t.seq = .yield (.call (.write k rx eoi)) :: rest ∧
        t.drv = { s.drv with data := true } ∧ t = { s with seq := t.seq, drv := t.drv, cmd := t.cmd } ∧
        (s.sel.listenerSec ≠ 0x6F → t.cmd = s.cmd) ∧
        (s.sel.listenerSec = 0x6F → s.cmd.len < s.cfg.cmd15Max → t.cmd.len = s.cmd.len + 1 ∧
          t.cmd.overflow = s.cmd.overflow ∧
          ∀ a, memGet t.cmd.buf a = if a = s.cmd.len then some rx else memGet s.cmd.buf a) ∧
        (s.sel.listenerSec = 0x6F → s.cfg.cmd15Max ≤ s.cmd.len → t.cmd = { s.cmd with overflow := true }))

/-- The standard transmit of a device in no fast-load protocol: CLK is released, and DATA is awaited high. The last byte, or
one begun with DATA high, then waits for the listener's EOI answer, the latter without a timeout, and a byte that is not
there is refused after that; a bit, from bit 0 of the peeked byte on, drives CLK low and drives DATA low exactly for a 0,
then releases CLK; after the eighth the acknowledge is awaited, only then is the byte consumed, and its time is noted
(41_iec_core R540, R541, R543 to R546, R548). -/
def Obligations.StandardTransmitSendsItsBitsAndEoi : Prop :=
  ∀ (s : State) (k n i : Nat) (verify : Bool) (b : Byte) (rest : List Pos),
    (s.seq = .tick (.transmit k n) :: rest → s.flag k .jiffyBlock = false → s.flag k .jiffyDetected = false →
      s.flag k .dolphinDetected = false → step s = .next { s with
        drv := { s.drv with clk := false }
        seq := .yield (.waitFor .data .high 0 (now s) true) ::
          .tx (.ready k n (decide (readLine s .data = .high))) :: rest }) ∧
    (s.seq = .tx (.ready k n verify) :: rest →
      (n = 1 ∨ verify = true → step s = .next { s with
        seq := .yield (.waitFor .data .low (if verify then 0 else s.cfg.tIecTxEoiLow) (now s) true) ::
          .tx (.high k n) :: rest }) ∧
      (1 < n → verify = false →
        step s = .next { s with seq := .yield (.call (.peek k)) :: .tx (.peeked k) :: rest }) ∧
      (n = 0 → verify = false → step s = failWith .deviceRefused { s with seq := rest })) ∧
    (s.seq = .tx (.high k n) :: rest → step s = .next { s with
      seq := .yield (.waitFor .data .high 0 (now s) true) :: .tx (.send k n) :: rest }) ∧
    (s.seq = .tx (.send k n) :: rest →
      (n = 0 → step s = failWith .deviceRefused { s with seq := rest }) ∧
      (n ≠ 0 → step s = .next { s with seq := .yield (.call (.peek k)) :: .tx (.peeked k) :: rest })) ∧
    (s.seq = .tx (.peeked k) :: rest → step s = .next { s with
      drv := { s.drv with clk := true, data := !s.work.answer.byte.getLsbD 0 }
      seq := .yield (.waitUs s.cfg.tIecBitLow (now s) true) :: .tx (.lowHeld k s.work.answer.byte 0) :: rest }) ∧
    (s.seq = .tx (.highHeld k b i) :: rest → i < 7 → step s = .next { s with
      drv := { s.drv with clk := true, data := !b.getLsbD (i + 1) }
      seq := .yield (.waitUs s.cfg.tIecBitLow (now s) true) :: .tx (.lowHeld k b (i + 1)) :: rest }) ∧
    (s.seq = .tx (.lowHeld k b i) :: rest → step s = .next { s with
      drv := { s.drv with clk := false }
      seq := .yield (.waitUs s.cfg.tIecBitHigh (now s) true) :: .tx (.highHeld k b i) :: rest }) ∧
    (s.seq = .tx (.highHeld k b 7) :: rest → step s = .next { s with
      drv := { s.drv with clk := true, data := false }
      seq := .yield (.waitFor .data .low s.cfg.tIecAck (now s) true) :: .tx (.acked k) :: rest }) ∧
    (s.seq = .tx (.acked k) :: rest → step s = .next { s with
      seq := .yield (.call (.read k)) :: .tx .committed :: rest }) ∧
    (s.seq = .tx .committed :: rest → step s = .next { s with seq := rest, talk := ⟨false, s.env.micros⟩ })

/-! ## JiffyDOS -/

/-- The default lookup takes the least valid entry that shares the low nibble, and detects only if that entry has
`JiffyEnabled` (42_jiffydos R602). -/
def Obligations.JiffyLookupTakesTheFirstSharedNibble : Prop :=
  ∀ (s : State) (rx : Byte) (j : Nat), s.cfg.jiffyLookup = .lowNibble →
    (jiffyLookup s rx = some j ↔
      (j < s.dev.length ∧ (entryAt s.dev j).valid = true ∧
        (entryAt s.dev j).address.extractLsb' 0 4 = rx.extractLsb' 0 4 ∧ s.flag j .jiffyEnabled = true ∧
        ∀ i < j, ¬ ((entryAt s.dev i).valid = true ∧
          (entryAt s.dev i).address.extractLsb' 0 4 = rx.extractLsb' 0 4)))

/-- The four pair samples of a JiffyDOS byte, taken in four states, fill the bits (4,5), (6,7), (3,1), (2,0) from the
lines and polarities of `JIFFY_RX_MAP` (42_jiffydos R604). -/
def Obligations.JiffyPairsFillTheirBits : Prop :=
  ∀ (s0 s1 s2 s3 : State) (b : Byte),
    b = samplePair s3 3 (samplePair s2 2 (samplePair s1 1 (samplePair s0 0 0x00))) →
    b.getLsbD 4 = readSource s0 s0.cfg.jiffyRxMap.s0.first ∧ b.getLsbD 5 = readSource s0 s0.cfg.jiffyRxMap.s0.second ∧
    b.getLsbD 6 = readSource s1 s1.cfg.jiffyRxMap.s1.first ∧ b.getLsbD 7 = readSource s1 s1.cfg.jiffyRxMap.s1.second ∧
    b.getLsbD 3 = readSource s2 s2.cfg.jiffyRxMap.s2.first ∧ b.getLsbD 1 = readSource s2 s2.cfg.jiffyRxMap.s2.second ∧
    b.getLsbD 2 = readSource s3 s3.cfg.jiffyRxMap.s3.first ∧ b.getLsbD 0 = readSource s3 s3.cfg.jiffyRxMap.s3.second

/-- The end of a zero-length block completes the talk: CLK is driven low again, interrupts are unmasked, `done` is set
and the time is noted; an edge latched during the pulse has no effect inside the tick (42_jiffydos R610, 45_scheduler
R912). That CLK is low with `done` set, although the last sentence of 10_state R103 releases both lines then, is the reading
of assumption log 29. -/
def Obligations.ZeroLengthBlockEndsTheTalk : Prop :=
  ∀ (s : State) (rest : List Pos), s.seq = .jiffy .eoiHeld :: rest →
    (s.fl.irqPending = false ∨ s.fl.inTick = true) →
    step s = .next { s with
      seq := rest
      drv := { s.drv with clk := true }
      fl := { s.fl with irqMasked := false, irqPending := false }
      bus := { s.bus with done := true }
      talk := ⟨false, s.env.micros⟩ }

/-! ## DolphinDOS -/

/-- The first bytes of a SAVE are held and not delivered, up to `DOLPHIN_PREBUFFER_BYTES` of them; the pre-buffer
disarms when it is full or at EOI (43_dolphindos R704). That a byte past that bound is delivered, after those held, is
the model's reading (assumption log 18, 10_state R150). -/
def Obligations.FirstSaveBytesAreHeld : Prop :=
  ∀ (s : State) (k : Nat) (eoi : Bool) (rest : List Pos), s.seq = .dol (.rxData k eoi) :: rest →
    s.dol.preArm = true → s.sel.listener = some k → s.sel.listenerSec = 0x61 →
    (s.dol.preN < s.cfg.prebufferBytes → s.dol.preN < s.cfg.bufSize →
      ∃ t, step s = .next t ∧ t.seq = rest ∧ t.drv = { s.drv with data := true } ∧
        t.dol.preN = s.dol.preN + 1 ∧ t.dol.preDev = k ∧ t.dol.preEoi = eoi ∧
        (t.dol.preArm = false ↔ s.dol.preN + 1 = s.cfg.prebufferBytes ∨ eoi = true) ∧
        t.dol.capN = (if s.dol.preN = 0 then 0 else s.dol.capN) ∧
        (∀ a, memGet t.buf a = if a = s.dol.preN then some (parRead s) else memGet s.buf a) ∧
        t = { s with seq := t.seq, drv := t.drv, buf := t.buf, dol := { t.dol with reqTime := s.dol.reqTime } }) ∧
    (s.cfg.prebufferBytes ≤ s.dol.preN → 0 < s.dol.preN → s.dol.preDev = k →
      step s = dolFlush [.yield (.call (.write k (parRead s) eoi))]
        { s with drv := { s.drv with data := true }, seq := rest })

/-- Held bytes, however many, reach their device in order, before anything else, the last one with its own EOI; where the
SAVE listen is no longer open they are bracketed by `listen(0x61)` and `unlisten()`, and an open listen of that device is
restored. A claim of the buffer by a JiffyDOS block, an Epyx load step or a sector operation, whose command has a
command byte or stands for 0x00 without one, flushes them first (43_dolphindos R705, 44_epyx R814, R816, R817). The statements on LISTEN, TALK, the filename length and the data bytes have the other flush
points. -/
def Obligations.HeldBytesAreFlushedInOrder : Prop :=
  (∀ (s : State) (init : List Byte) (last : Byte) (ps writes : List Pos),
    s.dol.preN = (init ++ [last]).length → s.dol.preN ≤ s.cfg.bufSize →
    (∀ a < s.dol.preN, memGet s.buf a = (init ++ [last])[a]?) →
    writes = init.map (fun b => .yield (.call (.write s.dol.preDev b false))) ++
      [.yield (.call (.write s.dol.preDev last s.dol.preEoi))] →
    ∃ calls, dolFlush ps s = .next { s with
        dol := { s.dol with preN := 0, preArm := false }, seq := calls ++ ps ++ s.seq } ∧
      (s.sel.listener = some s.dol.preDev ∧ s.sel.listenerSec = 0x61 → calls = writes) ∧
      (s.sel.listener ≠ some s.dol.preDev → calls = [.yield (.call (.listen s.dol.preDev 0x61))] ++ writes ++
        [.yield (.call (.unlisten s.dol.preDev))]) ∧
      (s.sel.listener = some s.dol.preDev → s.sel.listenerSec ≠ 0x61 →
        calls = [.yield (.call (.listen s.dol.preDev 0x61))] ++ writes ++
          [.yield (.call (.unlisten s.dol.preDev)), .yield (.call (.listen s.dol.preDev s.sel.listenerSec))])) ∧
  ∀ (s : State) (rest : List Pos) (k n : Nat) (t sec : Byte), s.dol.preN ≠ 0 →
    (s.seq = .tick (.transmit k n) :: rest → s.flag k .jiffyBlock = true →
      step s = dolFlush [.jiffy (.claimed k n)] { s with seq := rest }) ∧
    (s.seq = .tick .s4 :: rest → s.cfg.featEpyx = true → s.bus.mode = .idle →
      leastWith s [.epyxHeader, .epyxLoad, .epyxSectorOp] = some k → s.flag k .epyxHeader = false →
      s.flag k .epyxLoad = true →
      step s = dolFlush [.epyx (.loadClaimed k)] { s with seq := .tick .s5 :: rest }) ∧
    (s.seq = .epyx (.sectorCommand k t sec) :: rest →
      (sectorOp (sectorFormat s.cfg s.epyx.sum) t sec s.work.byte = .read →
        step s = dolFlush [.epyx (.readClaimed k t sec)] { s with seq := rest }) ∧
      (sectorOp (sectorFormat s.cfg s.epyx.sum) t sec s.work.byte = .write →
        step s = dolFlush [.epyx (.writeClaimed k t sec)] { s with seq := rest })) ∧
    (s.seq = .epyx (.sectorSector k t) :: rest → (sectorFormat s.cfg s.epyx.sum).hasCommand = false →
      sec = s.work.byte →
      (sectorOp (sectorFormat s.cfg s.epyx.sum) t sec 0x00 = .read →
        step s = dolFlush [.epyx (.readClaimed k t sec)] { s with seq := rest }) ∧
      (sectorOp (sectorFormat s.cfg s.epyx.sum) t sec 0x00 = .write →
        step s = dolFlush [.epyx (.writeClaimed k t sec)] { s with seq := rest }))

/-- The acknowledge of a DolphinDOS byte returns the parallel bus to input on every result, and a byte acknowledged in
time is noted (43_dolphindos R706, R714). -/
def Obligations.DolphinAcknowledgeFreesTheParallelBus : Prop :=
  ∀ (s : State) (rest : List Pos), s.seq = .dol .txAcked :: rest → s.fl.inTick = true →
    (s.work.wait = .reached → step s = .next { s with
      seq := rest, drv := { s.drv with parOutMode := false }, talk := ⟨false, s.env.micros⟩ }) ∧
    ∃ t, step s = .next t ∧ t.drv.parOutMode = false

/-- A pending burst starts in step S3 once its delay is over: the flags are cleared, and the device is told to talk or
to listen; before that it stays pending (43_dolphindos R711 to R713, 45_scheduler R903). The delay is over at some place
of its band (40_timing R412): it stays pending before the band, it has started from the band's end on, and between it does
the one or the other. It starts only where the direction test holds, the default one or a fixed answer for each direction,
and else stays pending. No held byte is flushed before `talk(0x60)`: that is the reading of assumption log 32. -/
def Obligations.PendingBurstStartsAfterItsDelay : Prop :=
  ∀ (s wait start : State) (k delay : Nat) (rest : List Pos) (ok : Bool), s.seq = .tick .s3 :: rest →
    s.bus.mode = .idle → s.cfg.featDolphin = true → s.cfg.hasParallel = true →
    (s.cfg.dolphinDirOk = .released ∧ (ok = true ↔ s.fl.atnActive = false ∧ s.drv.parOutMode = false) ∨
      ∃ tx rx, s.cfg.dolphinDirOk = .fixed tx rx ∧ ok = if s.flag k .dolphinBurstTx then tx else rx) →
    leastWith s [.dolphinBurstTx, .dolphinBurstRx] = some k →
    wait = { s with seq := .tick .s4 :: rest } →
    (s.flag k .dolphinBurstTx = true ∧ delay = s.cfg.tDolBurstTxDelay ∧ start = { s with
        dev := ((s.clearFlag k .dolphinBurstTx).clearFlag k .dolphinBurstRx).dev
        seq := .yield (.call (.talk k 0x60)) :: .dol (.burstTalk k) :: .dol .releaseClk :: .dol .returned ::
          .tick .s4 :: rest } ∨
      s.flag k .dolphinBurstTx = false ∧ delay = s.cfg.tDolBurstRxDelay ∧ start = { s with
        dev := ((s.clearFlag k .dolphinBurstTx).clearFlag k .dolphinBurstRx).dev
        seq := .yield (.call (.listen k 0x61)) :: .dol (.burstListen k) :: .dol .returned :: .tick .s4 :: rest }) →
    (elapsed s s.dol.reqTime + s.cfg.tTol < delay → step s = .next wait) ∧
    (ok = false → step s = .next wait) ∧
    (ok = true → delay + s.cfg.tTol ≤ elapsed s s.dol.reqTime → step s = .next start) ∧
    (step s = .next wait ∨ step s = .next start)

/-! ## The scheduler (45_scheduler) -/

/-- The listen step of a listening engine and the talk step of a talking one ask the device with `in_tick` false and the
override on, and poll ATN again; not decided skips the byte, and a listener's 0 refuses it. A byte is then received by the
protocol the device was detected for, as soon as CLK allows, or sent by its protocol, after the talk gap, whose end lies in
its band (45_scheduler R905 to R910, 41_iec_core R547, 40_timing R412). Under ATN the listen step receives when CLK is high.
A step whose guard is false does nothing. -/
def Obligations.ListenAndTalkStepsAskTheDeviceFirst : Prop :=
  (∀ (s : State) (rest : List Pos),
    (s.seq = .tick .s5 :: rest → (s.bus.done = true ∨ s.bus.mode = .idle ∨ s.bus.mode = .talking) →
      step s = .next { s with seq := .tick .s6 :: rest }) ∧
    (s.seq = .tick .s6 :: rest → (s.bus.done = true ∨ s.bus.mode ≠ .talking) →
      step s = .next { s with seq := .tick .s7 :: rest }) ∧
    (s.seq = .tick .s5 :: rest → s.bus.done = false → s.bus.mode = .underAtn →
      (readLine s .clk = .high → step s = iecReceive { s with seq := .tick .s6 :: rest }) ∧
      (readLine s .clk = .low → step s = .next { s with seq := .tick .s6 :: rest }))) ∧
  (∀ (s u : State) (k : Nat) (w : BitVec 8) (rest : List Pos), s.bus.mode = .listening → s.sel.current = some k →
    u = { s with
      drv := { s.drv with ctrlOn := if s.cfg.hasCtrlPin then false else s.drv.ctrlOn }, seq := rest } →
    (s.seq = .tick .s5 :: rest → s.bus.done = false → step s = .next { s with
      fl := { s.fl with inTick := false }
      drv := { s.drv with ctrlOn := if s.cfg.hasCtrlPin then true else s.drv.ctrlOn }
      seq := .yield (.call (.canWrite k)) :: .tick .canWrite :: .tick .s6 :: rest }) ∧
    (s.seq = .tick .canWrite :: rest → step s = .next (atnRequest { s with
      fl := { s.fl with inTick := true }, seq := .tick (.listen s.work.answer.count) :: rest })) ∧
    (s.seq = .tick (.listen w) :: rest →
      (w.msb = true → step s = .next u) ∧
      (w = 0 → step s = failWith .deviceRefused u) ∧
      (w.msb = false → w ≠ 0 →
        (s.flag k .jiffyDetected = true → step s = jiffyReceive k u) ∧
        (s.flag k .jiffyDetected = false → readLine u .clk = .low → step s = .next u) ∧
        (s.flag k .jiffyDetected = false → readLine u .clk = .high →
          (s.flag k .dolphinDetected = true → step s = dolReceive k u) ∧
          (s.flag k .dolphinDetected = false → step s = iecReceive u))))) ∧
  ∀ (s u : State) (k m : Nat) (n : BitVec 8) (rest : List Pos), s.bus.mode = .talking → s.sel.current = some k →
    u = { s with
      drv := { s.drv with ctrlOn := if s.cfg.hasCtrlPin then false else s.drv.ctrlOn }, seq := rest } →
    (s.seq = .tick .s6 :: rest → s.bus.done = false → step s = .next { s with
      fl := { s.fl with inTick := false }
      drv := { s.drv with ctrlOn := if s.cfg.hasCtrlPin then true else s.drv.ctrlOn }
      seq := .yield (.call (.canRead k)) :: .tick (.canRead k) :: .tick .s7 :: rest }) ∧
    (s.seq = .tick (.canRead k) :: rest → step s = .next (atnRequest { s with
      fl := { s.fl with inTick := true }, seq := .tick (.talk k s.work.answer.count) :: rest })) ∧
    (s.seq = .tick (.talk k n) :: rest →
      (n.msb = true → step s = .next u) ∧
      (n.msb = false → s.talk.txFirst = false → elapsed s s.talk.lastTxTime + s.cfg.tTol < s.cfg.tIecTalkGap →
        step s = .next { u with
          seq := .yield (.waitUs (s.cfg.tIecTalkGap - elapsed s s.talk.lastTxTime) (now s) true) ::
            .tick (.transmit k n.toNat) :: rest }) ∧
      (n.msb = false → s.talk.txFirst = true ∨ s.cfg.tIecTalkGap + s.cfg.tTol ≤ elapsed s s.talk.lastTxTime →
        step s = step { u with seq := .tick (.transmit k n.toNat) :: rest })) ∧
    (s.seq = .tick (.transmit k m) :: rest →
      (s.flag k .jiffyBlock = true → step s = jiffyBlockStep k m { s with seq := rest }) ∧
      (s.flag k .jiffyBlock = false → s.flag k .jiffyDetected = true →
        step s = jiffyTransmit k m { s with seq := rest }) ∧
      (s.flag k .jiffyBlock = false → s.flag k .jiffyDetected = false →
        (s.flag k .dolphinDetected = true → step s = dolTransmit k m { s with seq := rest }) ∧
        (s.flag k .dolphinDetected = false → step s = iecTransmit k m { s with seq := rest })))

/-- The tick ends with `task()` on every valid entry in index order, then `in_tick` is cleared, and an ATN fall that
came meanwhile is handled at once (45_scheduler R900, R911, R914). -/
def Obligations.TickEndsWithTasksAndThePostPoll : Prop :=
  ∀ (s : State) (rest : List Pos),
    (s.seq = .tick .s8 :: rest → step s = .next { s with
      seq := (validIndices s).map (fun k => .yield (.call (.task k))) ++ .tick .finish :: rest }) ∧
    (s.seq = .tick .finish :: rest → s.fl.irqMasked = false → atnMismatch s = false →
      step s = .next { s with seq := rest, fl := { s.fl with inTick := false } }) ∧
    (s.seq = .tick .finish :: rest → s.fl.irqMasked = false → readLine s .atn = .low → s.fl.atnActive = false →
      step s = .next (atnFall { s with seq := .tick .posted :: rest, fl := { s.fl with inTick := true } }))
end

