-- ==== Sys2Proof/Laws/State.lean ====
section
/-! SUPPORT. The fields of the state after each named update: one lemma for each field and update, so that no proof
unfolds an update. -/

namespace Sys2Proof.Machine

/-! `State.push`: push. -/

@[simp] theorem State.push_bus (ps : List Pos) (s : State) : (s.push ps).bus = s.bus := rfl
@[simp] theorem State.push_seq (ps : List Pos) (s : State) : (s.push ps).seq = ps ++ s.seq := rfl
@[simp] theorem State.push_fl (ps : List Pos) (s : State) : (s.push ps).fl = s.fl := rfl
@[simp] theorem State.push_addr (ps : List Pos) (s : State) : (s.push ps).addr = s.addr := rfl
@[simp] theorem State.push_sel (ps : List Pos) (s : State) : (s.push ps).sel = s.sel := rfl
@[simp] theorem State.push_dev (ps : List Pos) (s : State) : (s.push ps).dev = s.dev := rfl
@[simp] theorem State.push_drv (ps : List Pos) (s : State) : (s.push ps).drv = s.drv := rfl
@[simp] theorem State.push_buf (ps : List Pos) (s : State) : (s.push ps).buf = s.buf := rfl
@[simp] theorem State.push_talk (ps : List Pos) (s : State) : (s.push ps).talk = s.talk := rfl
@[simp] theorem State.push_dol (ps : List Pos) (s : State) : (s.push ps).dol = s.dol := rfl
@[simp] theorem State.push_cmd (ps : List Pos) (s : State) : (s.push ps).cmd = s.cmd := rfl
@[simp] theorem State.push_epyx (ps : List Pos) (s : State) : (s.push ps).epyx = s.epyx := rfl
@[simp] theorem State.push_registry (ps : List Pos) (s : State) : (s.push ps).registry = s.registry := rfl
@[simp] theorem State.push_engine (ps : List Pos) (s : State) : (s.push ps).engine = s.engine := rfl
@[simp] theorem State.push_cfg (ps : List Pos) (s : State) : (s.push ps).cfg = s.cfg := rfl
@[simp] theorem State.push_env (ps : List Pos) (s : State) : (s.push ps).env = s.env := rfl
@[simp] theorem State.push_work (ps : List Pos) (s : State) : (s.push ps).work = s.work := rfl
@[simp] theorem State.push_life (ps : List Pos) (s : State) : (s.push ps).life = s.life := rfl

/-! `State.pop`: pop. -/

@[simp] theorem State.pop_bus (s : State) : s.pop.bus = s.bus := rfl
@[simp] theorem State.pop_seq (s : State) : s.pop.seq = s.seq.tail := rfl
@[simp] theorem State.pop_fl (s : State) : s.pop.fl = s.fl := rfl
@[simp] theorem State.pop_addr (s : State) : s.pop.addr = s.addr := rfl
@[simp] theorem State.pop_sel (s : State) : s.pop.sel = s.sel := rfl
@[simp] theorem State.pop_dev (s : State) : s.pop.dev = s.dev := rfl
@[simp] theorem State.pop_drv (s : State) : s.pop.drv = s.drv := rfl
@[simp] theorem State.pop_buf (s : State) : s.pop.buf = s.buf := rfl
@[simp] theorem State.pop_talk (s : State) : s.pop.talk = s.talk := rfl
@[simp] theorem State.pop_dol (s : State) : s.pop.dol = s.dol := rfl
@[simp] theorem State.pop_cmd (s : State) : s.pop.cmd = s.cmd := rfl
@[simp] theorem State.pop_epyx (s : State) : s.pop.epyx = s.epyx := rfl
@[simp] theorem State.pop_registry (s : State) : s.pop.registry = s.registry := rfl
@[simp] theorem State.pop_engine (s : State) : s.pop.engine = s.engine := rfl
@[simp] theorem State.pop_cfg (s : State) : s.pop.cfg = s.cfg := rfl
@[simp] theorem State.pop_env (s : State) : s.pop.env = s.env := rfl
@[simp] theorem State.pop_work (s : State) : s.pop.work = s.work := rfl
@[simp] theorem State.pop_life (s : State) : s.pop.life = s.life := rfl

/-! `State.call`: a device call. -/

@[simp] theorem State.call_bus (c : DevCall) (ps : List Pos) (s : State) : (s.call c ps).bus = s.bus := rfl
@[simp] theorem State.call_seq (c : DevCall) (ps : List Pos) (s : State) :
    (s.call c ps).seq = .yield (.call c) :: ps ++ s.seq := rfl
@[simp] theorem State.call_fl (c : DevCall) (ps : List Pos) (s : State) : (s.call c ps).fl = s.fl := rfl
@[simp] theorem State.call_addr (c : DevCall) (ps : List Pos) (s : State) : (s.call c ps).addr = s.addr := rfl
@[simp] theorem State.call_sel (c : DevCall) (ps : List Pos) (s : State) : (s.call c ps).sel = s.sel := rfl
@[simp] theorem State.call_dev (c : DevCall) (ps : List Pos) (s : State) : (s.call c ps).dev = s.dev := rfl
@[simp] theorem State.call_drv (c : DevCall) (ps : List Pos) (s : State) : (s.call c ps).drv = s.drv := rfl
@[simp] theorem State.call_buf (c : DevCall) (ps : List Pos) (s : State) : (s.call c ps).buf = s.buf := rfl
@[simp] theorem State.call_talk (c : DevCall) (ps : List Pos) (s : State) : (s.call c ps).talk = s.talk := rfl
@[simp] theorem State.call_dol (c : DevCall) (ps : List Pos) (s : State) : (s.call c ps).dol = s.dol := rfl
@[simp] theorem State.call_cmd (c : DevCall) (ps : List Pos) (s : State) : (s.call c ps).cmd = s.cmd := rfl
@[simp] theorem State.call_epyx (c : DevCall) (ps : List Pos) (s : State) : (s.call c ps).epyx = s.epyx := rfl
@[simp] theorem State.call_registry (c : DevCall) (ps : List Pos) (s : State) :
    (s.call c ps).registry = s.registry := rfl
@[simp] theorem State.call_engine (c : DevCall) (ps : List Pos) (s : State) : (s.call c ps).engine = s.engine := rfl
@[simp] theorem State.call_cfg (c : DevCall) (ps : List Pos) (s : State) : (s.call c ps).cfg = s.cfg := rfl
@[simp] theorem State.call_env (c : DevCall) (ps : List Pos) (s : State) : (s.call c ps).env = s.env := rfl
@[simp] theorem State.call_work (c : DevCall) (ps : List Pos) (s : State) : (s.call c ps).work = s.work := rfl
@[simp] theorem State.call_life (c : DevCall) (ps : List Pos) (s : State) : (s.call c ps).life = s.life := rfl

/-! `State.waitFor`: a strict line wait. -/

@[simp] theorem State.waitFor_bus (l : Line) (lvl : Level) (t : Nat) (ps : List Pos) (s : State) :
    (s.waitFor l lvl t ps).bus = s.bus := rfl
@[simp] theorem State.waitFor_seq (l : Line) (lvl : Level) (t : Nat) (ps : List Pos) (s : State) :
    (s.waitFor l lvl t ps).seq = .yield (.waitFor l lvl t (now s) true) :: ps ++ s.seq := rfl
@[simp] theorem State.waitFor_fl (l : Line) (lvl : Level) (t : Nat) (ps : List Pos) (s : State) :
    (s.waitFor l lvl t ps).fl = s.fl := rfl
@[simp] theorem State.waitFor_addr (l : Line) (lvl : Level) (t : Nat) (ps : List Pos) (s : State) :
    (s.waitFor l lvl t ps).addr = s.addr := rfl
@[simp] theorem State.waitFor_sel (l : Line) (lvl : Level) (t : Nat) (ps : List Pos) (s : State) :
    (s.waitFor l lvl t ps).sel = s.sel := rfl
@[simp] theorem State.waitFor_dev (l : Line) (lvl : Level) (t : Nat) (ps : List Pos) (s : State) :
    (s.waitFor l lvl t ps).dev = s.dev := rfl
@[simp] theorem State.waitFor_drv (l : Line) (lvl : Level) (t : Nat) (ps : List Pos) (s : State) :
    (s.waitFor l lvl t ps).drv = s.drv := rfl
@[simp] theorem State.waitFor_buf (l : Line) (lvl : Level) (t : Nat) (ps : List Pos) (s : State) :
    (s.waitFor l lvl t ps).buf = s.buf := rfl
@[simp] theorem State.waitFor_talk (l : Line) (lvl : Level) (t : Nat) (ps : List Pos) (s : State) :
    (s.waitFor l lvl t ps).talk = s.talk := rfl
@[simp] theorem State.waitFor_dol (l : Line) (lvl : Level) (t : Nat) (ps : List Pos) (s : State) :
    (s.waitFor l lvl t ps).dol = s.dol := rfl
@[simp] theorem State.waitFor_cmd (l : Line) (lvl : Level) (t : Nat) (ps : List Pos) (s : State) :
    (s.waitFor l lvl t ps).cmd = s.cmd := rfl
@[simp] theorem State.waitFor_epyx (l : Line) (lvl : Level) (t : Nat) (ps : List Pos) (s : State) :
    (s.waitFor l lvl t ps).epyx = s.epyx := rfl
@[simp] theorem State.waitFor_registry (l : Line) (lvl : Level) (t : Nat) (ps : List Pos) (s : State) :
    (s.waitFor l lvl t ps).registry = s.registry := rfl
@[simp] theorem State.waitFor_engine (l : Line) (lvl : Level) (t : Nat) (ps : List Pos) (s : State) :
    (s.waitFor l lvl t ps).engine = s.engine := rfl
@[simp] theorem State.waitFor_cfg (l : Line) (lvl : Level) (t : Nat) (ps : List Pos) (s : State) :
    (s.waitFor l lvl t ps).cfg = s.cfg := rfl
@[simp] theorem State.waitFor_env (l : Line) (lvl : Level) (t : Nat) (ps : List Pos) (s : State) :
    (s.waitFor l lvl t ps).env = s.env := rfl
@[simp] theorem State.waitFor_work (l : Line) (lvl : Level) (t : Nat) (ps : List Pos) (s : State) :
    (s.waitFor l lvl t ps).work = s.work := rfl
@[simp] theorem State.waitFor_life (l : Line) (lvl : Level) (t : Nat) (ps : List Pos) (s : State) :
    (s.waitFor l lvl t ps).life = s.life := rfl

/-! `State.tryWait`: a line wait. -/

@[simp] theorem State.tryWait_bus (l : Line) (lvl : Level) (t : Nat) (ps : List Pos) (s : State) :
    (s.tryWait l lvl t ps).bus = s.bus := rfl
@[simp] theorem State.tryWait_seq (l : Line) (lvl : Level) (t : Nat) (ps : List Pos) (s : State) :
    (s.tryWait l lvl t ps).seq = .yield (.waitFor l lvl t (now s) false) :: ps ++ s.seq := rfl
@[simp] theorem State.tryWait_fl (l : Line) (lvl : Level) (t : Nat) (ps : List Pos) (s : State) :
    (s.tryWait l lvl t ps).fl = s.fl := rfl
@[simp] theorem State.tryWait_addr (l : Line) (lvl : Level) (t : Nat) (ps : List Pos) (s : State) :
    (s.tryWait l lvl t ps).addr = s.addr := rfl
@[simp] theorem State.tryWait_sel (l : Line) (lvl : Level) (t : Nat) (ps : List Pos) (s : State) :
    (s.tryWait l lvl t ps).sel = s.sel := rfl
@[simp] theorem State.tryWait_dev (l : Line) (lvl : Level) (t : Nat) (ps : List Pos) (s : State) :
    (s.tryWait l lvl t ps).dev = s.dev := rfl
@[simp] theorem State.tryWait_drv (l : Line) (lvl : Level) (t : Nat) (ps : List Pos) (s : State) :
    (s.tryWait l lvl t ps).drv = s.drv := rfl
@[simp] theorem State.tryWait_buf (l : Line) (lvl : Level) (t : Nat) (ps : List Pos) (s : State) :
    (s.tryWait l lvl t ps).buf = s.buf := rfl
@[simp] theorem State.tryWait_talk (l : Line) (lvl : Level) (t : Nat) (ps : List Pos) (s : State) :
    (s.tryWait l lvl t ps).talk = s.talk := rfl
@[simp] theorem State.tryWait_dol (l : Line) (lvl : Level) (t : Nat) (ps : List Pos) (s : State) :
    (s.tryWait l lvl t ps).dol = s.dol := rfl
@[simp] theorem State.tryWait_cmd (l : Line) (lvl : Level) (t : Nat) (ps : List Pos) (s : State) :
    (s.tryWait l lvl t ps).cmd = s.cmd := rfl
@[simp] theorem State.tryWait_epyx (l : Line) (lvl : Level) (t : Nat) (ps : List Pos) (s : State) :
    (s.tryWait l lvl t ps).epyx = s.epyx := rfl
@[simp] theorem State.tryWait_registry (l : Line) (lvl : Level) (t : Nat) (ps : List Pos) (s : State) :
    (s.tryWait l lvl t ps).registry = s.registry := rfl
@[simp] theorem State.tryWait_engine (l : Line) (lvl : Level) (t : Nat) (ps : List Pos) (s : State) :
    (s.tryWait l lvl t ps).engine = s.engine := rfl
@[simp] theorem State.tryWait_cfg (l : Line) (lvl : Level) (t : Nat) (ps : List Pos) (s : State) :
    (s.tryWait l lvl t ps).cfg = s.cfg := rfl
@[simp] theorem State.tryWait_env (l : Line) (lvl : Level) (t : Nat) (ps : List Pos) (s : State) :
    (s.tryWait l lvl t ps).env = s.env := rfl
@[simp] theorem State.tryWait_work (l : Line) (lvl : Level) (t : Nat) (ps : List Pos) (s : State) :
    (s.tryWait l lvl t ps).work = s.work := rfl
@[simp] theorem State.tryWait_life (l : Line) (lvl : Level) (t : Nat) (ps : List Pos) (s : State) :
    (s.tryWait l lvl t ps).life = s.life := rfl

/-! `State.hold`: a hold. -/

@[simp] theorem State.hold_bus (t : Nat) (ps : List Pos) (s : State) : (s.hold t ps).bus = s.bus := rfl
@[simp] theorem State.hold_seq (t : Nat) (ps : List Pos) (s : State) :
    (s.hold t ps).seq = .yield (.waitUs t (now s) true) :: ps ++ s.seq := rfl
@[simp] theorem State.hold_fl (t : Nat) (ps : List Pos) (s : State) : (s.hold t ps).fl = s.fl := rfl
@[simp] theorem State.hold_addr (t : Nat) (ps : List Pos) (s : State) : (s.hold t ps).addr = s.addr := rfl
@[simp] theorem State.hold_sel (t : Nat) (ps : List Pos) (s : State) : (s.hold t ps).sel = s.sel := rfl
@[simp] theorem State.hold_dev (t : Nat) (ps : List Pos) (s : State) : (s.hold t ps).dev = s.dev := rfl
@[simp] theorem State.hold_drv (t : Nat) (ps : List Pos) (s : State) : (s.hold t ps).drv = s.drv := rfl
@[simp] theorem State.hold_buf (t : Nat) (ps : List Pos) (s : State) : (s.hold t ps).buf = s.buf := rfl
@[simp] theorem State.hold_talk (t : Nat) (ps : List Pos) (s : State) : (s.hold t ps).talk = s.talk := rfl
@[simp] theorem State.hold_dol (t : Nat) (ps : List Pos) (s : State) : (s.hold t ps).dol = s.dol := rfl
@[simp] theorem State.hold_cmd (t : Nat) (ps : List Pos) (s : State) : (s.hold t ps).cmd = s.cmd := rfl
@[simp] theorem State.hold_epyx (t : Nat) (ps : List Pos) (s : State) : (s.hold t ps).epyx = s.epyx := rfl
@[simp] theorem State.hold_registry (t : Nat) (ps : List Pos) (s : State) : (s.hold t ps).registry = s.registry := rfl
@[simp] theorem State.hold_engine (t : Nat) (ps : List Pos) (s : State) : (s.hold t ps).engine = s.engine := rfl
@[simp] theorem State.hold_cfg (t : Nat) (ps : List Pos) (s : State) : (s.hold t ps).cfg = s.cfg := rfl
@[simp] theorem State.hold_env (t : Nat) (ps : List Pos) (s : State) : (s.hold t ps).env = s.env := rfl
@[simp] theorem State.hold_work (t : Nat) (ps : List Pos) (s : State) : (s.hold t ps).work = s.work := rfl
@[simp] theorem State.hold_life (t : Nat) (ps : List Pos) (s : State) : (s.hold t ps).life = s.life := rfl

/-! `State.waitHalf`: a timed instant. -/

@[simp] theorem State.waitHalf_bus (t0 : Micros) (half : Nat) (ps : List Pos) (s : State) :
    (s.waitHalf t0 half ps).bus = s.bus := rfl
@[simp] theorem State.waitHalf_seq (t0 : Micros) (half : Nat) (ps : List Pos) (s : State) :
    (s.waitHalf t0 half ps).seq = .yield (.waitUntil half t0) :: ps ++ s.seq := rfl
@[simp] theorem State.waitHalf_fl (t0 : Micros) (half : Nat) (ps : List Pos) (s : State) :
    (s.waitHalf t0 half ps).fl = s.fl := rfl
@[simp] theorem State.waitHalf_addr (t0 : Micros) (half : Nat) (ps : List Pos) (s : State) :
    (s.waitHalf t0 half ps).addr = s.addr := rfl
@[simp] theorem State.waitHalf_sel (t0 : Micros) (half : Nat) (ps : List Pos) (s : State) :
    (s.waitHalf t0 half ps).sel = s.sel := rfl
@[simp] theorem State.waitHalf_dev (t0 : Micros) (half : Nat) (ps : List Pos) (s : State) :
    (s.waitHalf t0 half ps).dev = s.dev := rfl
@[simp] theorem State.waitHalf_drv (t0 : Micros) (half : Nat) (ps : List Pos) (s : State) :
    (s.waitHalf t0 half ps).drv = s.drv := rfl
@[simp] theorem State.waitHalf_buf (t0 : Micros) (half : Nat) (ps : List Pos) (s : State) :
    (s.waitHalf t0 half ps).buf = s.buf := rfl
@[simp] theorem State.waitHalf_talk (t0 : Micros) (half : Nat) (ps : List Pos) (s : State) :
    (s.waitHalf t0 half ps).talk = s.talk := rfl
@[simp] theorem State.waitHalf_dol (t0 : Micros) (half : Nat) (ps : List Pos) (s : State) :
    (s.waitHalf t0 half ps).dol = s.dol := rfl
@[simp] theorem State.waitHalf_cmd (t0 : Micros) (half : Nat) (ps : List Pos) (s : State) :
    (s.waitHalf t0 half ps).cmd = s.cmd := rfl
@[simp] theorem State.waitHalf_epyx (t0 : Micros) (half : Nat) (ps : List Pos) (s : State) :
    (s.waitHalf t0 half ps).epyx = s.epyx := rfl
@[simp] theorem State.waitHalf_registry (t0 : Micros) (half : Nat) (ps : List Pos) (s : State) :
    (s.waitHalf t0 half ps).registry = s.registry := rfl
@[simp] theorem State.waitHalf_engine (t0 : Micros) (half : Nat) (ps : List Pos) (s : State) :
    (s.waitHalf t0 half ps).engine = s.engine := rfl
@[simp] theorem State.waitHalf_cfg (t0 : Micros) (half : Nat) (ps : List Pos) (s : State) :
    (s.waitHalf t0 half ps).cfg = s.cfg := rfl
@[simp] theorem State.waitHalf_env (t0 : Micros) (half : Nat) (ps : List Pos) (s : State) :
    (s.waitHalf t0 half ps).env = s.env := rfl
@[simp] theorem State.waitHalf_work (t0 : Micros) (half : Nat) (ps : List Pos) (s : State) :
    (s.waitHalf t0 half ps).work = s.work := rfl
@[simp] theorem State.waitHalf_life (t0 : Micros) (half : Nat) (ps : List Pos) (s : State) :
    (s.waitHalf t0 half ps).life = s.life := rfl

/-! `State.waitHr`: a wait for HR. -/

@[simp] theorem State.waitHr_bus (edge : Level) (t : Nat) (strict : Bool) (ps : List Pos) (s : State) :
    (s.waitHr edge t strict ps).bus = s.bus := rfl
@[simp] theorem State.waitHr_seq (edge : Level) (t : Nat) (strict : Bool) (ps : List Pos) (s : State) :
    (s.waitHr edge t strict ps).seq = .yield (.waitHr edge t (now s) (readLine s .hr) strict) :: ps ++ s.seq := rfl
@[simp] theorem State.waitHr_fl (edge : Level) (t : Nat) (strict : Bool) (ps : List Pos) (s : State) :
    (s.waitHr edge t strict ps).fl = s.fl := rfl
@[simp] theorem State.waitHr_addr (edge : Level) (t : Nat) (strict : Bool) (ps : List Pos) (s : State) :
    (s.waitHr edge t strict ps).addr = s.addr := rfl
@[simp] theorem State.waitHr_sel (edge : Level) (t : Nat) (strict : Bool) (ps : List Pos) (s : State) :
    (s.waitHr edge t strict ps).sel = s.sel := rfl
@[simp] theorem State.waitHr_dev (edge : Level) (t : Nat) (strict : Bool) (ps : List Pos) (s : State) :
    (s.waitHr edge t strict ps).dev = s.dev := rfl
@[simp] theorem State.waitHr_drv (edge : Level) (t : Nat) (strict : Bool) (ps : List Pos) (s : State) :
    (s.waitHr edge t strict ps).drv = s.drv := rfl
@[simp] theorem State.waitHr_buf (edge : Level) (t : Nat) (strict : Bool) (ps : List Pos) (s : State) :
    (s.waitHr edge t strict ps).buf = s.buf := rfl
@[simp] theorem State.waitHr_talk (edge : Level) (t : Nat) (strict : Bool) (ps : List Pos) (s : State) :
    (s.waitHr edge t strict ps).talk = s.talk := rfl
@[simp] theorem State.waitHr_dol (edge : Level) (t : Nat) (strict : Bool) (ps : List Pos) (s : State) :
    (s.waitHr edge t strict ps).dol = s.dol := rfl
@[simp] theorem State.waitHr_cmd (edge : Level) (t : Nat) (strict : Bool) (ps : List Pos) (s : State) :
    (s.waitHr edge t strict ps).cmd = s.cmd := rfl
@[simp] theorem State.waitHr_epyx (edge : Level) (t : Nat) (strict : Bool) (ps : List Pos) (s : State) :
    (s.waitHr edge t strict ps).epyx = s.epyx := rfl
@[simp] theorem State.waitHr_registry (edge : Level) (t : Nat) (strict : Bool) (ps : List Pos) (s : State) :
    (s.waitHr edge t strict ps).registry = s.registry := rfl
@[simp] theorem State.waitHr_engine (edge : Level) (t : Nat) (strict : Bool) (ps : List Pos) (s : State) :
    (s.waitHr edge t strict ps).engine = s.engine := rfl
@[simp] theorem State.waitHr_cfg (edge : Level) (t : Nat) (strict : Bool) (ps : List Pos) (s : State) :
    (s.waitHr edge t strict ps).cfg = s.cfg := rfl
@[simp] theorem State.waitHr_env (edge : Level) (t : Nat) (strict : Bool) (ps : List Pos) (s : State) :
    (s.waitHr edge t strict ps).env = s.env := rfl
@[simp] theorem State.waitHr_work (edge : Level) (t : Nat) (strict : Bool) (ps : List Pos) (s : State) :
    (s.waitHr edge t strict ps).work = s.work := rfl
@[simp] theorem State.waitHr_life (edge : Level) (t : Nat) (strict : Bool) (ps : List Pos) (s : State) :
    (s.waitHr edge t strict ps).life = s.life := rfl

/-! `setClk`: CLK. -/

@[simp] theorem setClk_bus (on : Bool) (s : State) : (setClk on s).bus = s.bus := rfl
@[simp] theorem setClk_seq (on : Bool) (s : State) : (setClk on s).seq = s.seq := rfl
@[simp] theorem setClk_fl (on : Bool) (s : State) : (setClk on s).fl = s.fl := rfl
@[simp] theorem setClk_addr (on : Bool) (s : State) : (setClk on s).addr = s.addr := rfl
@[simp] theorem setClk_sel (on : Bool) (s : State) : (setClk on s).sel = s.sel := rfl
@[simp] theorem setClk_dev (on : Bool) (s : State) : (setClk on s).dev = s.dev := rfl
@[simp] theorem setClk_drv (on : Bool) (s : State) : (setClk on s).drv = { s.drv with clk := on } := rfl
@[simp] theorem setClk_buf (on : Bool) (s : State) : (setClk on s).buf = s.buf := rfl
@[simp] theorem setClk_talk (on : Bool) (s : State) : (setClk on s).talk = s.talk := rfl
@[simp] theorem setClk_dol (on : Bool) (s : State) : (setClk on s).dol = s.dol := rfl
@[simp] theorem setClk_cmd (on : Bool) (s : State) : (setClk on s).cmd = s.cmd := rfl
@[simp] theorem setClk_epyx (on : Bool) (s : State) : (setClk on s).epyx = s.epyx := rfl
@[simp] theorem setClk_registry (on : Bool) (s : State) : (setClk on s).registry = s.registry := rfl
@[simp] theorem setClk_engine (on : Bool) (s : State) : (setClk on s).engine = s.engine := rfl
@[simp] theorem setClk_cfg (on : Bool) (s : State) : (setClk on s).cfg = s.cfg := rfl
@[simp] theorem setClk_env (on : Bool) (s : State) : (setClk on s).env = s.env := rfl
@[simp] theorem setClk_work (on : Bool) (s : State) : (setClk on s).work = s.work := rfl
@[simp] theorem setClk_life (on : Bool) (s : State) : (setClk on s).life = s.life := rfl

/-! `setData`: DATA. -/

@[simp] theorem setData_bus (on : Bool) (s : State) : (setData on s).bus = s.bus := rfl
@[simp] theorem setData_seq (on : Bool) (s : State) : (setData on s).seq = s.seq := rfl
@[simp] theorem setData_fl (on : Bool) (s : State) : (setData on s).fl = s.fl := rfl
@[simp] theorem setData_addr (on : Bool) (s : State) : (setData on s).addr = s.addr := rfl
@[simp] theorem setData_sel (on : Bool) (s : State) : (setData on s).sel = s.sel := rfl
@[simp] theorem setData_dev (on : Bool) (s : State) : (setData on s).dev = s.dev := rfl
@[simp] theorem setData_drv (on : Bool) (s : State) : (setData on s).drv = { s.drv with data := on } := rfl
@[simp] theorem setData_buf (on : Bool) (s : State) : (setData on s).buf = s.buf := rfl
@[simp] theorem setData_talk (on : Bool) (s : State) : (setData on s).talk = s.talk := rfl
@[simp] theorem setData_dol (on : Bool) (s : State) : (setData on s).dol = s.dol := rfl
@[simp] theorem setData_cmd (on : Bool) (s : State) : (setData on s).cmd = s.cmd := rfl
@[simp] theorem setData_epyx (on : Bool) (s : State) : (setData on s).epyx = s.epyx := rfl
@[simp] theorem setData_registry (on : Bool) (s : State) : (setData on s).registry = s.registry := rfl
@[simp] theorem setData_engine (on : Bool) (s : State) : (setData on s).engine = s.engine := rfl
@[simp] theorem setData_cfg (on : Bool) (s : State) : (setData on s).cfg = s.cfg := rfl
@[simp] theorem setData_env (on : Bool) (s : State) : (setData on s).env = s.env := rfl
@[simp] theorem setData_work (on : Bool) (s : State) : (setData on s).work = s.work := rfl
@[simp] theorem setData_life (on : Bool) (s : State) : (setData on s).life = s.life := rfl

/-! `releaseBoth`: both lines. -/

@[simp] theorem releaseBoth_bus (s : State) : (releaseBoth s).bus = s.bus := rfl
@[simp] theorem releaseBoth_seq (s : State) : (releaseBoth s).seq = s.seq := rfl
@[simp] theorem releaseBoth_fl (s : State) : (releaseBoth s).fl = s.fl := rfl
@[simp] theorem releaseBoth_addr (s : State) : (releaseBoth s).addr = s.addr := rfl
@[simp] theorem releaseBoth_sel (s : State) : (releaseBoth s).sel = s.sel := rfl
@[simp] theorem releaseBoth_dev (s : State) : (releaseBoth s).dev = s.dev := rfl
@[simp] theorem releaseBoth_drv (s : State) : (releaseBoth s).drv = { s.drv with clk := false, data := false } := rfl
@[simp] theorem releaseBoth_buf (s : State) : (releaseBoth s).buf = s.buf := rfl
@[simp] theorem releaseBoth_talk (s : State) : (releaseBoth s).talk = s.talk := rfl
@[simp] theorem releaseBoth_dol (s : State) : (releaseBoth s).dol = s.dol := rfl
@[simp] theorem releaseBoth_cmd (s : State) : (releaseBoth s).cmd = s.cmd := rfl
@[simp] theorem releaseBoth_epyx (s : State) : (releaseBoth s).epyx = s.epyx := rfl
@[simp] theorem releaseBoth_registry (s : State) : (releaseBoth s).registry = s.registry := rfl
@[simp] theorem releaseBoth_engine (s : State) : (releaseBoth s).engine = s.engine := rfl
@[simp] theorem releaseBoth_cfg (s : State) : (releaseBoth s).cfg = s.cfg := rfl
@[simp] theorem releaseBoth_env (s : State) : (releaseBoth s).env = s.env := rfl
@[simp] theorem releaseBoth_work (s : State) : (releaseBoth s).work = s.work := rfl
@[simp] theorem releaseBoth_life (s : State) : (releaseBoth s).life = s.life := rfl

/-! `setLines`: CLK and DATA. -/

@[simp] theorem setLines_bus (l : Level × Level) (s : State) : (setLines l s).bus = s.bus := rfl
@[simp] theorem setLines_seq (l : Level × Level) (s : State) : (setLines l s).seq = s.seq := rfl
@[simp] theorem setLines_fl (l : Level × Level) (s : State) : (setLines l s).fl = s.fl := rfl
@[simp] theorem setLines_addr (l : Level × Level) (s : State) : (setLines l s).addr = s.addr := rfl
@[simp] theorem setLines_sel (l : Level × Level) (s : State) : (setLines l s).sel = s.sel := rfl
@[simp] theorem setLines_dev (l : Level × Level) (s : State) : (setLines l s).dev = s.dev := rfl
@[simp] theorem setLines_drv (l : Level × Level) (s : State) :
    (setLines l s).drv = { s.drv with clk := l.1 == .low, data := l.2 == .low } := rfl
@[simp] theorem setLines_buf (l : Level × Level) (s : State) : (setLines l s).buf = s.buf := rfl
@[simp] theorem setLines_talk (l : Level × Level) (s : State) : (setLines l s).talk = s.talk := rfl
@[simp] theorem setLines_dol (l : Level × Level) (s : State) : (setLines l s).dol = s.dol := rfl
@[simp] theorem setLines_cmd (l : Level × Level) (s : State) : (setLines l s).cmd = s.cmd := rfl
@[simp] theorem setLines_epyx (l : Level × Level) (s : State) : (setLines l s).epyx = s.epyx := rfl
@[simp] theorem setLines_registry (l : Level × Level) (s : State) : (setLines l s).registry = s.registry := rfl
@[simp] theorem setLines_engine (l : Level × Level) (s : State) : (setLines l s).engine = s.engine := rfl
@[simp] theorem setLines_cfg (l : Level × Level) (s : State) : (setLines l s).cfg = s.cfg := rfl
@[simp] theorem setLines_env (l : Level × Level) (s : State) : (setLines l s).env = s.env := rfl
@[simp] theorem setLines_work (l : Level × Level) (s : State) : (setLines l s).work = s.work := rfl
@[simp] theorem setLines_life (l : Level × Level) (s : State) : (setLines l s).life = s.life := rfl

/-! `parInput`: the parallel bus to input. -/

@[simp] theorem parInput_bus (s : State) : (parInput s).bus = s.bus := rfl
@[simp] theorem parInput_seq (s : State) : (parInput s).seq = s.seq := rfl
@[simp] theorem parInput_fl (s : State) : (parInput s).fl = s.fl := rfl
@[simp] theorem parInput_addr (s : State) : (parInput s).addr = s.addr := rfl
@[simp] theorem parInput_sel (s : State) : (parInput s).sel = s.sel := rfl
@[simp] theorem parInput_dev (s : State) : (parInput s).dev = s.dev := rfl
@[simp] theorem parInput_drv (s : State) : (parInput s).drv = { s.drv with parOutMode := false } := rfl
@[simp] theorem parInput_buf (s : State) : (parInput s).buf = s.buf := rfl
@[simp] theorem parInput_talk (s : State) : (parInput s).talk = s.talk := rfl
@[simp] theorem parInput_dol (s : State) : (parInput s).dol = s.dol := rfl
@[simp] theorem parInput_cmd (s : State) : (parInput s).cmd = s.cmd := rfl
@[simp] theorem parInput_epyx (s : State) : (parInput s).epyx = s.epyx := rfl
@[simp] theorem parInput_registry (s : State) : (parInput s).registry = s.registry := rfl
@[simp] theorem parInput_engine (s : State) : (parInput s).engine = s.engine := rfl
@[simp] theorem parInput_cfg (s : State) : (parInput s).cfg = s.cfg := rfl
@[simp] theorem parInput_env (s : State) : (parInput s).env = s.env := rfl
@[simp] theorem parInput_work (s : State) : (parInput s).work = s.work := rfl
@[simp] theorem parInput_life (s : State) : (parInput s).life = s.life := rfl

/-! `setHt`: HT. -/

@[simp] theorem setHt_bus (on : Bool) (s : State) : (setHt on s).bus = s.bus := by unfold setHt; split <;> rfl
@[simp] theorem setHt_seq (on : Bool) (s : State) : (setHt on s).seq = s.seq := by unfold setHt; split <;> rfl
@[simp] theorem setHt_fl (on : Bool) (s : State) : (setHt on s).fl = s.fl := by unfold setHt; split <;> rfl
@[simp] theorem setHt_addr (on : Bool) (s : State) : (setHt on s).addr = s.addr := by unfold setHt; split <;> rfl
@[simp] theorem setHt_sel (on : Bool) (s : State) : (setHt on s).sel = s.sel := by unfold setHt; split <;> rfl
@[simp] theorem setHt_dev (on : Bool) (s : State) : (setHt on s).dev = s.dev := by unfold setHt; split <;> rfl
@[simp] theorem setHt_drv (on : Bool) (s : State) :
    (setHt on s).drv = if s.cfg.hasParallel then { s.drv with ht := on } else s.drv := by unfold setHt; split <;> rfl
@[simp] theorem setHt_buf (on : Bool) (s : State) : (setHt on s).buf = s.buf := by unfold setHt; split <;> rfl
@[simp] theorem setHt_talk (on : Bool) (s : State) : (setHt on s).talk = s.talk := by unfold setHt; split <;> rfl
@[simp] theorem setHt_dol (on : Bool) (s : State) : (setHt on s).dol = s.dol := by unfold setHt; split <;> rfl
@[simp] theorem setHt_cmd (on : Bool) (s : State) : (setHt on s).cmd = s.cmd := by unfold setHt; split <;> rfl
@[simp] theorem setHt_epyx (on : Bool) (s : State) : (setHt on s).epyx = s.epyx := by unfold setHt; split <;> rfl
@[simp] theorem setHt_registry (on : Bool) (s : State) :
    (setHt on s).registry = s.registry := by unfold setHt; split <;> rfl
@[simp] theorem setHt_engine (on : Bool) (s : State) :
    (setHt on s).engine = s.engine := by unfold setHt; split <;> rfl
@[simp] theorem setHt_cfg (on : Bool) (s : State) : (setHt on s).cfg = s.cfg := by unfold setHt; split <;> rfl
@[simp] theorem setHt_env (on : Bool) (s : State) : (setHt on s).env = s.env := by unfold setHt; split <;> rfl
@[simp] theorem setHt_work (on : Bool) (s : State) : (setHt on s).work = s.work := by unfold setHt; split <;> rfl
@[simp] theorem setHt_life (on : Bool) (s : State) : (setHt on s).life = s.life := by unfold setHt; split <;> rfl

/-! `override`: CTRL. -/

@[simp] theorem override_bus (enable : Bool) (s : State) :
    (override enable s).bus = s.bus := by unfold override; split <;> rfl
@[simp] theorem override_seq (enable : Bool) (s : State) :
    (override enable s).seq = s.seq := by unfold override; split <;> rfl
@[simp] theorem override_fl (enable : Bool) (s : State) :
    (override enable s).fl = s.fl := by unfold override; split <;> rfl
@[simp] theorem override_addr (enable : Bool) (s : State) :
    (override enable s).addr = s.addr := by unfold override; split <;> rfl
@[simp] theorem override_sel (enable : Bool) (s : State) :
    (override enable s).sel = s.sel := by unfold override; split <;> rfl
@[simp] theorem override_dev (enable : Bool) (s : State) :
    (override enable s).dev = s.dev := by unfold override; split <;> rfl
@[simp] theorem override_drv (enable : Bool) (s : State) :
    (override enable s).drv = if s.cfg.hasCtrlPin then { s.drv with ctrlOn := enable } else s.drv := by unfold override; split <;> rfl
@[simp] theorem override_buf (enable : Bool) (s : State) :
    (override enable s).buf = s.buf := by unfold override; split <;> rfl
@[simp] theorem override_talk (enable : Bool) (s : State) :
    (override enable s).talk = s.talk := by unfold override; split <;> rfl
@[simp] theorem override_dol (enable : Bool) (s : State) :
    (override enable s).dol = s.dol := by unfold override; split <;> rfl
@[simp] theorem override_cmd (enable : Bool) (s : State) :
    (override enable s).cmd = s.cmd := by unfold override; split <;> rfl
@[simp] theorem override_epyx (enable : Bool) (s : State) :
    (override enable s).epyx = s.epyx := by unfold override; split <;> rfl
@[simp] theorem override_registry (enable : Bool) (s : State) :
    (override enable s).registry = s.registry := by unfold override; split <;> rfl
@[simp] theorem override_engine (enable : Bool) (s : State) :
    (override enable s).engine = s.engine := by unfold override; split <;> rfl
@[simp] theorem override_cfg (enable : Bool) (s : State) :
    (override enable s).cfg = s.cfg := by unfold override; split <;> rfl
@[simp] theorem override_env (enable : Bool) (s : State) :
    (override enable s).env = s.env := by unfold override; split <;> rfl
@[simp] theorem override_work (enable : Bool) (s : State) :
    (override enable s).work = s.work := by unfold override; split <;> rfl
@[simp] theorem override_life (enable : Bool) (s : State) :
    (override enable s).life = s.life := by unfold override; split <;> rfl

/-! `parOutput`: the parallel bus to output. -/

@[simp] theorem parOutput_bus (b : Byte) (s : State) :
    (parOutput b s).bus = s.bus := by unfold parOutput; split <;> rfl
@[simp] theorem parOutput_seq (b : Byte) (s : State) :
    (parOutput b s).seq = s.seq := by unfold parOutput; split <;> rfl
@[simp] theorem parOutput_fl (b : Byte) (s : State) : (parOutput b s).fl = s.fl := by unfold parOutput; split <;> rfl
@[simp] theorem parOutput_addr (b : Byte) (s : State) :
    (parOutput b s).addr = s.addr := by unfold parOutput; split <;> rfl
@[simp] theorem parOutput_sel (b : Byte) (s : State) :
    (parOutput b s).sel = s.sel := by unfold parOutput; split <;> rfl
@[simp] theorem parOutput_dev (b : Byte) (s : State) :
    (parOutput b s).dev = s.dev := by unfold parOutput; split <;> rfl
@[simp] theorem parOutput_drv (b : Byte) (s : State) :
    (parOutput b s).drv = if s.cfg.hasParallel then { s.drv with parOutMode := true, parOut := b } else s.drv := by unfold parOutput; split <;> rfl
@[simp] theorem parOutput_buf (b : Byte) (s : State) :
    (parOutput b s).buf = s.buf := by unfold parOutput; split <;> rfl
@[simp] theorem parOutput_talk (b : Byte) (s : State) :
    (parOutput b s).talk = s.talk := by unfold parOutput; split <;> rfl
@[simp] theorem parOutput_dol (b : Byte) (s : State) :
    (parOutput b s).dol = s.dol := by unfold parOutput; split <;> rfl
@[simp] theorem parOutput_cmd (b : Byte) (s : State) :
    (parOutput b s).cmd = s.cmd := by unfold parOutput; split <;> rfl
@[simp] theorem parOutput_epyx (b : Byte) (s : State) :
    (parOutput b s).epyx = s.epyx := by unfold parOutput; split <;> rfl
@[simp] theorem parOutput_registry (b : Byte) (s : State) :
    (parOutput b s).registry = s.registry := by unfold parOutput; split <;> rfl
@[simp] theorem parOutput_engine (b : Byte) (s : State) :
    (parOutput b s).engine = s.engine := by unfold parOutput; split <;> rfl
@[simp] theorem parOutput_cfg (b : Byte) (s : State) :
    (parOutput b s).cfg = s.cfg := by unfold parOutput; split <;> rfl
@[simp] theorem parOutput_env (b : Byte) (s : State) :
    (parOutput b s).env = s.env := by unfold parOutput; split <;> rfl
@[simp] theorem parOutput_work (b : Byte) (s : State) :
    (parOutput b s).work = s.work := by unfold parOutput; split <;> rfl
@[simp] theorem parOutput_life (b : Byte) (s : State) :
    (parOutput b s).life = s.life := by unfold parOutput; split <;> rfl

/-! `State.setFlag`: a flag set. -/

@[simp] theorem State.setFlag_bus (k : Nat) (f : ProtoFlag) (s : State) : (s.setFlag k f).bus = s.bus := rfl
@[simp] theorem State.setFlag_seq (k : Nat) (f : ProtoFlag) (s : State) : (s.setFlag k f).seq = s.seq := rfl
@[simp] theorem State.setFlag_fl (k : Nat) (f : ProtoFlag) (s : State) : (s.setFlag k f).fl = s.fl := rfl
@[simp] theorem State.setFlag_addr (k : Nat) (f : ProtoFlag) (s : State) : (s.setFlag k f).addr = s.addr := rfl
@[simp] theorem State.setFlag_sel (k : Nat) (f : ProtoFlag) (s : State) : (s.setFlag k f).sel = s.sel := rfl
@[simp] theorem State.setFlag_dev (k : Nat) (f : ProtoFlag) (s : State) :
    (s.setFlag k f).dev = s.dev.modify k (Entry.set s.cfg f) := rfl
@[simp] theorem State.setFlag_drv (k : Nat) (f : ProtoFlag) (s : State) : (s.setFlag k f).drv = s.drv := rfl
@[simp] theorem State.setFlag_buf (k : Nat) (f : ProtoFlag) (s : State) : (s.setFlag k f).buf = s.buf := rfl
@[simp] theorem State.setFlag_talk (k : Nat) (f : ProtoFlag) (s : State) : (s.setFlag k f).talk = s.talk := rfl
@[simp] theorem State.setFlag_dol (k : Nat) (f : ProtoFlag) (s : State) : (s.setFlag k f).dol = s.dol := rfl
@[simp] theorem State.setFlag_cmd (k : Nat) (f : ProtoFlag) (s : State) : (s.setFlag k f).cmd = s.cmd := rfl
@[simp] theorem State.setFlag_epyx (k : Nat) (f : ProtoFlag) (s : State) : (s.setFlag k f).epyx = s.epyx := rfl
@[simp] theorem State.setFlag_registry (k : Nat) (f : ProtoFlag) (s : State) :
    (s.setFlag k f).registry = s.registry := rfl
@[simp] theorem State.setFlag_engine (k : Nat) (f : ProtoFlag) (s : State) : (s.setFlag k f).engine = s.engine := rfl
@[simp] theorem State.setFlag_cfg (k : Nat) (f : ProtoFlag) (s : State) : (s.setFlag k f).cfg = s.cfg := rfl
@[simp] theorem State.setFlag_env (k : Nat) (f : ProtoFlag) (s : State) : (s.setFlag k f).env = s.env := rfl
@[simp] theorem State.setFlag_work (k : Nat) (f : ProtoFlag) (s : State) : (s.setFlag k f).work = s.work := rfl
@[simp] theorem State.setFlag_life (k : Nat) (f : ProtoFlag) (s : State) : (s.setFlag k f).life = s.life := rfl

/-! `State.clearFlag`: a flag cleared. -/

@[simp] theorem State.clearFlag_bus (k : Nat) (f : ProtoFlag) (s : State) : (s.clearFlag k f).bus = s.bus := rfl
@[simp] theorem State.clearFlag_seq (k : Nat) (f : ProtoFlag) (s : State) : (s.clearFlag k f).seq = s.seq := rfl
@[simp] theorem State.clearFlag_fl (k : Nat) (f : ProtoFlag) (s : State) : (s.clearFlag k f).fl = s.fl := rfl
@[simp] theorem State.clearFlag_addr (k : Nat) (f : ProtoFlag) (s : State) : (s.clearFlag k f).addr = s.addr := rfl
@[simp] theorem State.clearFlag_sel (k : Nat) (f : ProtoFlag) (s : State) : (s.clearFlag k f).sel = s.sel := rfl
@[simp] theorem State.clearFlag_dev (k : Nat) (f : ProtoFlag) (s : State) :
    (s.clearFlag k f).dev = s.dev.modify k (Entry.clear f) := rfl
@[simp] theorem State.clearFlag_drv (k : Nat) (f : ProtoFlag) (s : State) : (s.clearFlag k f).drv = s.drv := rfl
@[simp] theorem State.clearFlag_buf (k : Nat) (f : ProtoFlag) (s : State) : (s.clearFlag k f).buf = s.buf := rfl
@[simp] theorem State.clearFlag_talk (k : Nat) (f : ProtoFlag) (s : State) : (s.clearFlag k f).talk = s.talk := rfl
@[simp] theorem State.clearFlag_dol (k : Nat) (f : ProtoFlag) (s : State) : (s.clearFlag k f).dol = s.dol := rfl
@[simp] theorem State.clearFlag_cmd (k : Nat) (f : ProtoFlag) (s : State) : (s.clearFlag k f).cmd = s.cmd := rfl
@[simp] theorem State.clearFlag_epyx (k : Nat) (f : ProtoFlag) (s : State) : (s.clearFlag k f).epyx = s.epyx := rfl
@[simp] theorem State.clearFlag_registry (k : Nat) (f : ProtoFlag) (s : State) :
    (s.clearFlag k f).registry = s.registry := rfl
@[simp] theorem State.clearFlag_engine (k : Nat) (f : ProtoFlag) (s : State) :
    (s.clearFlag k f).engine = s.engine := rfl
@[simp] theorem State.clearFlag_cfg (k : Nat) (f : ProtoFlag) (s : State) : (s.clearFlag k f).cfg = s.cfg := rfl
@[simp] theorem State.clearFlag_env (k : Nat) (f : ProtoFlag) (s : State) : (s.clearFlag k f).env = s.env := rfl
@[simp] theorem State.clearFlag_work (k : Nat) (f : ProtoFlag) (s : State) : (s.clearFlag k f).work = s.work := rfl
@[simp] theorem State.clearFlag_life (k : Nat) (f : ProtoFlag) (s : State) : (s.clearFlag k f).life = s.life := rfl

/-! `dropCapture`: the capture. -/

@[simp] theorem dropCapture_bus (s : State) : (dropCapture s).bus = s.bus := rfl
@[simp] theorem dropCapture_seq (s : State) : (dropCapture s).seq = s.seq := rfl
@[simp] theorem dropCapture_fl (s : State) : (dropCapture s).fl = s.fl := rfl
@[simp] theorem dropCapture_addr (s : State) : (dropCapture s).addr = s.addr := rfl
@[simp] theorem dropCapture_sel (s : State) : (dropCapture s).sel = s.sel := rfl
@[simp] theorem dropCapture_dev (s : State) : (dropCapture s).dev = s.dev := rfl
@[simp] theorem dropCapture_drv (s : State) : (dropCapture s).drv = s.drv := rfl
@[simp] theorem dropCapture_buf (s : State) : (dropCapture s).buf = s.buf := rfl
@[simp] theorem dropCapture_talk (s : State) : (dropCapture s).talk = s.talk := rfl
@[simp] theorem dropCapture_dol (s : State) : (dropCapture s).dol = { s.dol with capN := 0 } := rfl
@[simp] theorem dropCapture_cmd (s : State) : (dropCapture s).cmd = s.cmd := rfl
@[simp] theorem dropCapture_epyx (s : State) : (dropCapture s).epyx = s.epyx := rfl
@[simp] theorem dropCapture_registry (s : State) : (dropCapture s).registry = s.registry := rfl
@[simp] theorem dropCapture_engine (s : State) : (dropCapture s).engine = s.engine := rfl
@[simp] theorem dropCapture_cfg (s : State) : (dropCapture s).cfg = s.cfg := rfl
@[simp] theorem dropCapture_env (s : State) : (dropCapture s).env = s.env := rfl
@[simp] theorem dropCapture_work (s : State) : (dropCapture s).work = s.work := rfl
@[simp] theorem dropCapture_life (s : State) : (dropCapture s).life = s.life := rfl

/-! `setPrimary`: the primary. -/

@[simp] theorem setPrimary_bus (rx : Byte) (s : State) : (setPrimary rx s).bus = s.bus := rfl
@[simp] theorem setPrimary_seq (rx : Byte) (s : State) : (setPrimary rx s).seq = s.seq := rfl
@[simp] theorem setPrimary_fl (rx : Byte) (s : State) : (setPrimary rx s).fl = s.fl := rfl
@[simp] theorem setPrimary_addr (rx : Byte) (s : State) :
    (setPrimary rx s).addr = { s.addr with primary := rx } := rfl
@[simp] theorem setPrimary_sel (rx : Byte) (s : State) : (setPrimary rx s).sel = s.sel := rfl
@[simp] theorem setPrimary_dev (rx : Byte) (s : State) : (setPrimary rx s).dev = s.dev := rfl
@[simp] theorem setPrimary_drv (rx : Byte) (s : State) : (setPrimary rx s).drv = s.drv := rfl
@[simp] theorem setPrimary_buf (rx : Byte) (s : State) : (setPrimary rx s).buf = s.buf := rfl
@[simp] theorem setPrimary_talk (rx : Byte) (s : State) : (setPrimary rx s).talk = s.talk := rfl
@[simp] theorem setPrimary_dol (rx : Byte) (s : State) : (setPrimary rx s).dol = s.dol := rfl
@[simp] theorem setPrimary_cmd (rx : Byte) (s : State) : (setPrimary rx s).cmd = s.cmd := rfl
@[simp] theorem setPrimary_epyx (rx : Byte) (s : State) : (setPrimary rx s).epyx = s.epyx := rfl
@[simp] theorem setPrimary_registry (rx : Byte) (s : State) : (setPrimary rx s).registry = s.registry := rfl
@[simp] theorem setPrimary_engine (rx : Byte) (s : State) : (setPrimary rx s).engine = s.engine := rfl
@[simp] theorem setPrimary_cfg (rx : Byte) (s : State) : (setPrimary rx s).cfg = s.cfg := rfl
@[simp] theorem setPrimary_env (rx : Byte) (s : State) : (setPrimary rx s).env = s.env := rfl
@[simp] theorem setPrimary_work (rx : Byte) (s : State) : (setPrimary rx s).work = s.work := rfl
@[simp] theorem setPrimary_life (rx : Byte) (s : State) : (setPrimary rx s).life = s.life := rfl

/-! `setMode`: the mode. -/

@[simp] theorem setMode_bus (m : Mode) (s : State) : (setMode m s).bus = { s.bus with mode := m } := rfl
@[simp] theorem setMode_seq (m : Mode) (s : State) : (setMode m s).seq = s.seq := rfl
@[simp] theorem setMode_fl (m : Mode) (s : State) : (setMode m s).fl = s.fl := rfl
@[simp] theorem setMode_addr (m : Mode) (s : State) : (setMode m s).addr = s.addr := rfl
@[simp] theorem setMode_sel (m : Mode) (s : State) : (setMode m s).sel = s.sel := rfl
@[simp] theorem setMode_dev (m : Mode) (s : State) : (setMode m s).dev = s.dev := rfl
@[simp] theorem setMode_drv (m : Mode) (s : State) : (setMode m s).drv = s.drv := rfl
@[simp] theorem setMode_buf (m : Mode) (s : State) : (setMode m s).buf = s.buf := rfl
@[simp] theorem setMode_talk (m : Mode) (s : State) : (setMode m s).talk = s.talk := rfl
@[simp] theorem setMode_dol (m : Mode) (s : State) : (setMode m s).dol = s.dol := rfl
@[simp] theorem setMode_cmd (m : Mode) (s : State) : (setMode m s).cmd = s.cmd := rfl
@[simp] theorem setMode_epyx (m : Mode) (s : State) : (setMode m s).epyx = s.epyx := rfl
@[simp] theorem setMode_registry (m : Mode) (s : State) : (setMode m s).registry = s.registry := rfl
@[simp] theorem setMode_engine (m : Mode) (s : State) : (setMode m s).engine = s.engine := rfl
@[simp] theorem setMode_cfg (m : Mode) (s : State) : (setMode m s).cfg = s.cfg := rfl
@[simp] theorem setMode_env (m : Mode) (s : State) : (setMode m s).env = s.env := rfl
@[simp] theorem setMode_work (m : Mode) (s : State) : (setMode m s).work = s.work := rfl
@[simp] theorem setMode_life (m : Mode) (s : State) : (setMode m s).life = s.life := rfl

/-! `setInTick`: in_tick. -/

@[simp] theorem setInTick_bus (b : Bool) (s : State) : (setInTick b s).bus = s.bus := rfl
@[simp] theorem setInTick_seq (b : Bool) (s : State) : (setInTick b s).seq = s.seq := rfl
@[simp] theorem setInTick_fl (b : Bool) (s : State) : (setInTick b s).fl = { s.fl with inTick := b } := rfl
@[simp] theorem setInTick_addr (b : Bool) (s : State) : (setInTick b s).addr = s.addr := rfl
@[simp] theorem setInTick_sel (b : Bool) (s : State) : (setInTick b s).sel = s.sel := rfl
@[simp] theorem setInTick_dev (b : Bool) (s : State) : (setInTick b s).dev = s.dev := rfl
@[simp] theorem setInTick_drv (b : Bool) (s : State) : (setInTick b s).drv = s.drv := rfl
@[simp] theorem setInTick_buf (b : Bool) (s : State) : (setInTick b s).buf = s.buf := rfl
@[simp] theorem setInTick_talk (b : Bool) (s : State) : (setInTick b s).talk = s.talk := rfl
@[simp] theorem setInTick_dol (b : Bool) (s : State) : (setInTick b s).dol = s.dol := rfl
@[simp] theorem setInTick_cmd (b : Bool) (s : State) : (setInTick b s).cmd = s.cmd := rfl
@[simp] theorem setInTick_epyx (b : Bool) (s : State) : (setInTick b s).epyx = s.epyx := rfl
@[simp] theorem setInTick_registry (b : Bool) (s : State) : (setInTick b s).registry = s.registry := rfl
@[simp] theorem setInTick_engine (b : Bool) (s : State) : (setInTick b s).engine = s.engine := rfl
@[simp] theorem setInTick_cfg (b : Bool) (s : State) : (setInTick b s).cfg = s.cfg := rfl
@[simp] theorem setInTick_env (b : Bool) (s : State) : (setInTick b s).env = s.env := rfl
@[simp] theorem setInTick_work (b : Bool) (s : State) : (setInTick b s).work = s.work := rfl
@[simp] theorem setInTick_life (b : Bool) (s : State) : (setInTick b s).life = s.life := rfl

/-! `noteSent`: the talk timing. -/

@[simp] theorem noteSent_bus (s : State) : (noteSent s).bus = s.bus := rfl
@[simp] theorem noteSent_seq (s : State) : (noteSent s).seq = s.seq := rfl
@[simp] theorem noteSent_fl (s : State) : (noteSent s).fl = s.fl := rfl
@[simp] theorem noteSent_addr (s : State) : (noteSent s).addr = s.addr := rfl
@[simp] theorem noteSent_sel (s : State) : (noteSent s).sel = s.sel := rfl
@[simp] theorem noteSent_dev (s : State) : (noteSent s).dev = s.dev := rfl
@[simp] theorem noteSent_drv (s : State) : (noteSent s).drv = s.drv := rfl
@[simp] theorem noteSent_buf (s : State) : (noteSent s).buf = s.buf := rfl
@[simp] theorem noteSent_talk (s : State) : (noteSent s).talk = ⟨false, now s⟩ := rfl
@[simp] theorem noteSent_dol (s : State) : (noteSent s).dol = s.dol := rfl
@[simp] theorem noteSent_cmd (s : State) : (noteSent s).cmd = s.cmd := rfl
@[simp] theorem noteSent_epyx (s : State) : (noteSent s).epyx = s.epyx := rfl
@[simp] theorem noteSent_registry (s : State) : (noteSent s).registry = s.registry := rfl
@[simp] theorem noteSent_engine (s : State) : (noteSent s).engine = s.engine := rfl
@[simp] theorem noteSent_cfg (s : State) : (noteSent s).cfg = s.cfg := rfl
@[simp] theorem noteSent_env (s : State) : (noteSent s).env = s.env := rfl
@[simp] theorem noteSent_work (s : State) : (noteSent s).work = s.work := rfl
@[simp] theorem noteSent_life (s : State) : (noteSent s).life = s.life := rfl

/-! `epyxReset`: the write counter. -/

@[simp] theorem epyxReset_bus (s : State) : (epyxReset s).bus = s.bus := by unfold epyxReset; split <;> rfl
@[simp] theorem epyxReset_seq (s : State) : (epyxReset s).seq = s.seq := by unfold epyxReset; split <;> rfl
@[simp] theorem epyxReset_fl (s : State) : (epyxReset s).fl = s.fl := by unfold epyxReset; split <;> rfl
@[simp] theorem epyxReset_addr (s : State) : (epyxReset s).addr = s.addr := by unfold epyxReset; split <;> rfl
@[simp] theorem epyxReset_sel (s : State) : (epyxReset s).sel = s.sel := by unfold epyxReset; split <;> rfl
@[simp] theorem epyxReset_dev (s : State) : (epyxReset s).dev = s.dev := by unfold epyxReset; split <;> rfl
@[simp] theorem epyxReset_drv (s : State) : (epyxReset s).drv = s.drv := by unfold epyxReset; split <;> rfl
@[simp] theorem epyxReset_buf (s : State) : (epyxReset s).buf = s.buf := by unfold epyxReset; split <;> rfl
@[simp] theorem epyxReset_talk (s : State) : (epyxReset s).talk = s.talk := by unfold epyxReset; split <;> rfl
@[simp] theorem epyxReset_dol (s : State) : (epyxReset s).dol = s.dol := by unfold epyxReset; split <;> rfl
@[simp] theorem epyxReset_cmd (s : State) : (epyxReset s).cmd = s.cmd := by unfold epyxReset; split <;> rfl
@[simp] theorem epyxReset_epyx (s : State) :
    (epyxReset s).epyx = if s.cfg.featEpyx then { s.epyx with ctr := 0, ver := none } else s.epyx := by unfold epyxReset; split <;> rfl
@[simp] theorem epyxReset_registry (s : State) :
    (epyxReset s).registry = s.registry := by unfold epyxReset; split <;> rfl
@[simp] theorem epyxReset_engine (s : State) : (epyxReset s).engine = s.engine := by unfold epyxReset; split <;> rfl
@[simp] theorem epyxReset_cfg (s : State) : (epyxReset s).cfg = s.cfg := by unfold epyxReset; split <;> rfl
@[simp] theorem epyxReset_env (s : State) : (epyxReset s).env = s.env := by unfold epyxReset; split <;> rfl
@[simp] theorem epyxReset_work (s : State) : (epyxReset s).work = s.work := by unfold epyxReset; split <;> rfl
@[simp] theorem epyxReset_life (s : State) : (epyxReset s).life = s.life := by unfold epyxReset; split <;> rfl

/-! `goIdle`: no role. -/

@[simp] theorem goIdle_bus (s : State) : (goIdle s).bus = { s.bus with mode := .idle } := rfl
@[simp] theorem goIdle_seq (s : State) : (goIdle s).seq = s.seq := rfl
@[simp] theorem goIdle_fl (s : State) : (goIdle s).fl = s.fl := rfl
@[simp] theorem goIdle_addr (s : State) : (goIdle s).addr = s.addr := rfl
@[simp] theorem goIdle_sel (s : State) : (goIdle s).sel = { s.sel with current := none } := rfl
@[simp] theorem goIdle_dev (s : State) : (goIdle s).dev = s.dev := rfl
@[simp] theorem goIdle_drv (s : State) : (goIdle s).drv = { s.drv with clk := false, data := false } := rfl
@[simp] theorem goIdle_buf (s : State) : (goIdle s).buf = s.buf := rfl
@[simp] theorem goIdle_talk (s : State) : (goIdle s).talk = s.talk := rfl
@[simp] theorem goIdle_dol (s : State) : (goIdle s).dol = s.dol := rfl
@[simp] theorem goIdle_cmd (s : State) : (goIdle s).cmd = s.cmd := rfl
@[simp] theorem goIdle_epyx (s : State) : (goIdle s).epyx = s.epyx := rfl
@[simp] theorem goIdle_registry (s : State) : (goIdle s).registry = s.registry := rfl
@[simp] theorem goIdle_engine (s : State) : (goIdle s).engine = s.engine := rfl
@[simp] theorem goIdle_cfg (s : State) : (goIdle s).cfg = s.cfg := rfl
@[simp] theorem goIdle_env (s : State) : (goIdle s).env = s.env := rfl
@[simp] theorem goIdle_work (s : State) : (goIdle s).work = s.work := rfl
@[simp] theorem goIdle_life (s : State) : (goIdle s).life = s.life := rfl

/-! `unlistenEnd`: the end of UNLISTEN. -/

@[simp] theorem unlistenEnd_bus (s : State) : (unlistenEnd s).bus = { s.bus with mode := .idle } := rfl
@[simp] theorem unlistenEnd_seq (s : State) : (unlistenEnd s).seq = s.seq := rfl
@[simp] theorem unlistenEnd_fl (s : State) : (unlistenEnd s).fl = s.fl := rfl
@[simp] theorem unlistenEnd_addr (s : State) : (unlistenEnd s).addr = s.addr := rfl
@[simp] theorem unlistenEnd_sel (s : State) : (unlistenEnd s).sel = { s.sel with current := none } := rfl
@[simp] theorem unlistenEnd_dev (s : State) : (unlistenEnd s).dev = s.dev := rfl
@[simp] theorem unlistenEnd_drv (s : State) : (unlistenEnd s).drv = { s.drv with clk := false, data := false } := rfl
@[simp] theorem unlistenEnd_buf (s : State) : (unlistenEnd s).buf = s.buf := rfl
@[simp] theorem unlistenEnd_talk (s : State) : (unlistenEnd s).talk = s.talk := rfl
@[simp] theorem unlistenEnd_dol (s : State) : (unlistenEnd s).dol = { s.dol with preArm := false } := rfl
@[simp] theorem unlistenEnd_cmd (s : State) : (unlistenEnd s).cmd = s.cmd := rfl
@[simp] theorem unlistenEnd_epyx (s : State) : (unlistenEnd s).epyx = s.epyx := rfl
@[simp] theorem unlistenEnd_registry (s : State) : (unlistenEnd s).registry = s.registry := rfl
@[simp] theorem unlistenEnd_engine (s : State) : (unlistenEnd s).engine = s.engine := rfl
@[simp] theorem unlistenEnd_cfg (s : State) : (unlistenEnd s).cfg = s.cfg := rfl
@[simp] theorem unlistenEnd_env (s : State) : (unlistenEnd s).env = s.env := rfl
@[simp] theorem unlistenEnd_work (s : State) : (unlistenEnd s).work = s.work := rfl
@[simp] theorem unlistenEnd_life (s : State) : (unlistenEnd s).life = s.life := rfl

/-! `atnFall`: the ATN falling edge. -/

@[simp] theorem atnFall_bus (s : State) :
    (atnFall s).bus = ⟨.underAtn, false⟩ := by unfold atnFall override; split <;> rfl
@[simp] theorem atnFall_seq (s : State) : (atnFall s).seq = s.seq := by unfold atnFall override; split <;> rfl
@[simp] theorem atnFall_fl (s : State) :
    (atnFall s).fl = { s.fl with atnActive := true } := by unfold atnFall override; split <;> rfl
@[simp] theorem atnFall_addr (s : State) :
    (atnFall s).addr = ⟨0, 0, false⟩ := by unfold atnFall override; split <;> rfl
@[simp] theorem atnFall_sel (s : State) :
    (atnFall s).sel = { s.sel with current := none } := by unfold atnFall override; split <;> rfl
@[simp] theorem atnFall_dev (s : State) :
    (atnFall s).dev = s.dev.map Entry.dropTransient := by unfold atnFall override; split <;> rfl
@[simp] theorem atnFall_drv (s : State) :
    (atnFall s).drv = if s.cfg.hasCtrlPin then { s.drv with clk := false, data := true, ctrlOn := false } else { s.drv with clk := false, data := true } := by unfold atnFall; simp only [override_drv]; rfl
@[simp] theorem atnFall_buf (s : State) : (atnFall s).buf = s.buf := by unfold atnFall override; split <;> rfl
@[simp] theorem atnFall_talk (s : State) : (atnFall s).talk = s.talk := by unfold atnFall override; split <;> rfl
@[simp] theorem atnFall_dol (s : State) :
    (atnFall s).dol = { s.dol with preArm := false } := by unfold atnFall override; split <;> rfl
@[simp] theorem atnFall_cmd (s : State) : (atnFall s).cmd = s.cmd := by unfold atnFall override; split <;> rfl
@[simp] theorem atnFall_epyx (s : State) : (atnFall s).epyx = s.epyx := by unfold atnFall override; split <;> rfl
@[simp] theorem atnFall_registry (s : State) :
    (atnFall s).registry = s.registry := by unfold atnFall override; split <;> rfl
@[simp] theorem atnFall_engine (s : State) :
    (atnFall s).engine = s.engine := by unfold atnFall override; split <;> rfl
@[simp] theorem atnFall_cfg (s : State) : (atnFall s).cfg = s.cfg := by unfold atnFall override; split <;> rfl
@[simp] theorem atnFall_env (s : State) : (atnFall s).env = s.env := by unfold atnFall override; split <;> rfl
@[simp] theorem atnFall_work (s : State) : (atnFall s).work = s.work := by unfold atnFall override; split <;> rfl
@[simp] theorem atnFall_life (s : State) : (atnFall s).life = s.life := by unfold atnFall override; split <;> rfl

/-! `advanceClock`: the clock. -/

@[simp] theorem advanceClock_bus (dt : Micros) (s : State) : (advanceClock dt s).bus = s.bus := rfl
@[simp] theorem advanceClock_seq (dt : Micros) (s : State) : (advanceClock dt s).seq = s.seq := rfl
@[simp] theorem advanceClock_fl (dt : Micros) (s : State) : (advanceClock dt s).fl = s.fl := rfl
@[simp] theorem advanceClock_addr (dt : Micros) (s : State) : (advanceClock dt s).addr = s.addr := rfl
@[simp] theorem advanceClock_sel (dt : Micros) (s : State) : (advanceClock dt s).sel = s.sel := rfl
@[simp] theorem advanceClock_dev (dt : Micros) (s : State) : (advanceClock dt s).dev = s.dev := rfl
@[simp] theorem advanceClock_drv (dt : Micros) (s : State) : (advanceClock dt s).drv = s.drv := rfl
@[simp] theorem advanceClock_buf (dt : Micros) (s : State) : (advanceClock dt s).buf = s.buf := rfl
@[simp] theorem advanceClock_talk (dt : Micros) (s : State) : (advanceClock dt s).talk = s.talk := rfl
@[simp] theorem advanceClock_dol (dt : Micros) (s : State) : (advanceClock dt s).dol = s.dol := rfl
@[simp] theorem advanceClock_cmd (dt : Micros) (s : State) : (advanceClock dt s).cmd = s.cmd := rfl
@[simp] theorem advanceClock_epyx (dt : Micros) (s : State) : (advanceClock dt s).epyx = s.epyx := rfl
@[simp] theorem advanceClock_registry (dt : Micros) (s : State) : (advanceClock dt s).registry = s.registry := rfl
@[simp] theorem advanceClock_engine (dt : Micros) (s : State) : (advanceClock dt s).engine = s.engine := rfl
@[simp] theorem advanceClock_cfg (dt : Micros) (s : State) : (advanceClock dt s).cfg = s.cfg := rfl
@[simp] theorem advanceClock_env (dt : Micros) (s : State) :
    (advanceClock dt s).env = { s.env with micros := s.env.micros + dt } := rfl
@[simp] theorem advanceClock_work (dt : Micros) (s : State) : (advanceClock dt s).work = s.work := rfl
@[simp] theorem advanceClock_life (dt : Micros) (s : State) : (advanceClock dt s).life = s.life := rfl

/-! `burstClk`: CLK in a burst. -/

@[simp] theorem burstClk_bus (busy : Bool) (s : State) : (burstClk busy s).bus = s.bus := rfl
@[simp] theorem burstClk_seq (busy : Bool) (s : State) : (burstClk busy s).seq = s.seq := rfl
@[simp] theorem burstClk_fl (busy : Bool) (s : State) : (burstClk busy s).fl = s.fl := rfl
@[simp] theorem burstClk_addr (busy : Bool) (s : State) : (burstClk busy s).addr = s.addr := rfl
@[simp] theorem burstClk_sel (busy : Bool) (s : State) : (burstClk busy s).sel = s.sel := rfl
@[simp] theorem burstClk_dev (busy : Bool) (s : State) : (burstClk busy s).dev = s.dev := rfl
@[simp] theorem burstClk_drv (busy : Bool) (s : State) :
    (burstClk busy s).drv = { s.drv with clk := (s.cfg.dolphinBurst.busy == .low) == busy } := rfl
@[simp] theorem burstClk_buf (busy : Bool) (s : State) : (burstClk busy s).buf = s.buf := rfl
@[simp] theorem burstClk_talk (busy : Bool) (s : State) : (burstClk busy s).talk = s.talk := rfl
@[simp] theorem burstClk_dol (busy : Bool) (s : State) : (burstClk busy s).dol = s.dol := rfl
@[simp] theorem burstClk_cmd (busy : Bool) (s : State) : (burstClk busy s).cmd = s.cmd := rfl
@[simp] theorem burstClk_epyx (busy : Bool) (s : State) : (burstClk busy s).epyx = s.epyx := rfl
@[simp] theorem burstClk_registry (busy : Bool) (s : State) : (burstClk busy s).registry = s.registry := rfl
@[simp] theorem burstClk_engine (busy : Bool) (s : State) : (burstClk busy s).engine = s.engine := rfl
@[simp] theorem burstClk_cfg (busy : Bool) (s : State) : (burstClk busy s).cfg = s.cfg := rfl
@[simp] theorem burstClk_env (busy : Bool) (s : State) : (burstClk busy s).env = s.env := rfl
@[simp] theorem burstClk_work (busy : Bool) (s : State) : (burstClk busy s).work = s.work := rfl
@[simp] theorem burstClk_life (busy : Bool) (s : State) : (burstClk busy s).life = s.life := rfl

/-! `attachIsr`: the end of begin(). -/

@[simp] theorem attachIsr_bus (s : State) : (attachIsr s).bus = { s.bus with mode := .idle } := rfl
@[simp] theorem attachIsr_seq (s : State) : (attachIsr s).seq = s.seq := rfl
@[simp] theorem attachIsr_fl (s : State) : (attachIsr s).fl = { s.fl with atnActive := false } := rfl
@[simp] theorem attachIsr_addr (s : State) : (attachIsr s).addr = s.addr := rfl
@[simp] theorem attachIsr_sel (s : State) : (attachIsr s).sel = s.sel := rfl
@[simp] theorem attachIsr_dev (s : State) : (attachIsr s).dev = s.dev := rfl
@[simp] theorem attachIsr_drv (s : State) : (attachIsr s).drv = s.drv := rfl
@[simp] theorem attachIsr_buf (s : State) : (attachIsr s).buf = s.buf := rfl
@[simp] theorem attachIsr_talk (s : State) : (attachIsr s).talk = s.talk := rfl
@[simp] theorem attachIsr_dol (s : State) : (attachIsr s).dol = s.dol := rfl
@[simp] theorem attachIsr_cmd (s : State) : (attachIsr s).cmd = s.cmd := rfl
@[simp] theorem attachIsr_epyx (s : State) : (attachIsr s).epyx = s.epyx := rfl
@[simp] theorem attachIsr_registry (s : State) : (attachIsr s).registry = s.registry := rfl
@[simp] theorem attachIsr_engine (s : State) : (attachIsr s).engine = s.engine := rfl
@[simp] theorem attachIsr_cfg (s : State) : (attachIsr s).cfg = s.cfg := rfl
@[simp] theorem attachIsr_env (s : State) :
    (attachIsr s).env = { s.env with attached := s.cfg.hasAtnIrq && s.registry.any fun r => r.engine == s.engine } := rfl
@[simp] theorem attachIsr_work (s : State) : (attachIsr s).work = s.work := rfl
@[simp] theorem attachIsr_life (s : State) : (attachIsr s).life = .begun := rfl

end Sys2Proof.Machine
end

