-- ==== Sys2Proof/Laws/Flags.lean ====
section
/-! SUPPORT. The flags of the device table after each update, and what the updates leave of the table. -/

namespace Sys2Proof.Machine

/-- Different flags stand at different bits (10_state R131). -/
theorem ProtoFlag.bit_inj {f g : ProtoFlag} : f.bit = g.bit ↔ f = g := by
  cases f <;> cases g <;> decide

theorem ProtoFlag.bit_lt (f : ProtoFlag) : f.bit < 12 := by cases f <;> decide

/-- A flag after a write of 1: the written one is set if it exists (10_state R131), and no other changes. -/
theorem Entry.has_set (c : Cfg) (f g : ProtoFlag) (e : Entry) :
    (Entry.set c f e).has c g = if g = f then (wiredMask c).getLsbD f.bit else e.has c g := by
  simp only [Entry.set, Entry.has, ProtoFlag.mask, BitVec.getLsbD_and, BitVec.getLsbD_or, BitVec.getLsbD_twoPow]
  have := f.bit_lt
  split
  · next h => subst h; cases (wiredMask c).getLsbD g.bit <;> simp [this]
  · next h =>
    have : ¬ f.bit = g.bit := fun hb => h (ProtoFlag.bit_inj.1 hb).symm
    simp [this]

/-- A flag after a write of 0. -/
theorem Entry.has_clear (c : Cfg) (f g : ProtoFlag) (e : Entry) :
    (Entry.clear f e).has c g = if g = f then false else e.has c g := by
  simp only [Entry.clear, Entry.has, ProtoFlag.mask, BitVec.getLsbD_and, BitVec.getLsbD_not, BitVec.getLsbD_twoPow]
  have := g.bit_lt
  split
  · next h => subst h; simp [this]
  · next h =>
    have : ¬ f.bit = g.bit := fun hb => h (ProtoFlag.bit_inj.1 hb).symm
    simp [this, g.bit_lt]

/-- An index past the table's end has no flag. -/
theorem noEntry_has (c : Cfg) (f : ProtoFlag) : noEntry.has c f = false := by simp [noEntry, Entry.has]

theorem entryAt_modify (dev : List Entry) (k j : Nat) (u : Entry → Entry) :
    entryAt (dev.modify k u) j = if j = k ∧ j < dev.length then u (entryAt dev j) else entryAt dev j := by
  simp only [entryAt, List.getD, List.getElem?_modify]
  by_cases hj : j < dev.length
  · simp only [hj, and_true, List.getElem?_eq_getElem, Option.getD_some]
    by_cases h : j = k
    · simp [h]
    · simp [h, Ne.symm h]
  · simp [hj]

/-- `dev[k].f <- 1`: that flag of a device of the table is set if it exists; no other flag of any device changes. -/
theorem State.flag_setFlag (s : State) (k j : Nat) (f g : ProtoFlag) :
    (s.setFlag k f).flag j g =
      if j = k ∧ g = f ∧ j < s.dev.length then (wiredMask s.cfg).getLsbD f.bit else s.flag j g := by
  simp only [State.flag, State.setFlag, entryAt_modify]
  by_cases hj : j = k ∧ j < s.dev.length
  · rw [if_pos hj, Entry.has_set]
    by_cases hg : g = f <;> simp [hj.1, hg, hj.1 ▸ hj.2]
  · rw [if_neg hj, if_neg (fun h => hj ⟨h.1, h.2.2⟩)]

/-- `dev[k].f <- 0`. -/
theorem State.flag_clearFlag (s : State) (k j : Nat) (f g : ProtoFlag) :
    (s.clearFlag k f).flag j g = if j = k ∧ g = f then false else s.flag j g := by
  simp only [State.flag, State.clearFlag, entryAt_modify]
  by_cases hj : j < s.dev.length
  · by_cases hk : j = k
    · rw [if_pos ⟨hk, hj⟩, Entry.has_clear]; simp [hk]
    · rw [if_neg (fun h => hk h.1), if_neg (fun h => hk h.1)]
  · rw [if_neg (fun h => hj h.2)]
    have : entryAt s.dev j = noEntry := by simp [entryAt, List.getD, List.getElem?_eq_none (Nat.not_lt.1 hj)]
    rw [this, noEntry_has]
    simp

theorem Entry.identity_set (c : Cfg) (f : ProtoFlag) (e : Entry) : (Entry.set c f e).identity = e.identity := rfl

theorem Entry.identity_clear (f : ProtoFlag) (e : Entry) : (Entry.clear f e).identity = e.identity := rfl

theorem Entry.identity_restore (c : Cfg) (e : Entry) : (Entry.restore c e).identity = e.identity := rfl

theorem Entry.identity_dropTransient (e : Entry) : e.dropTransient.identity = e.identity := by
  unfold Entry.dropTransient
  split <;> rfl

/-- Changing the flags of one entry leaves the table (41_iec_core R504). -/
theorem map_identity_modify (dev : List Entry) (k : Nat) (u : Entry → Entry) (h : ∀ e, (u e).identity = e.identity) :
    (dev.modify k u).map Entry.identity = dev.map Entry.identity := by
  apply List.ext_getElem?
  intro i
  simp only [List.getElem?_map, List.getElem?_modify]
  cases dev[i]? <;> simp [apply_ite, h]

@[simp] theorem tableOf_setFlag (s : State) (k : Nat) (f : ProtoFlag) : tableOf (s.setFlag k f) = tableOf s :=
  map_identity_modify _ _ _ fun _ => rfl

@[simp] theorem tableOf_clearFlag (s : State) (k : Nat) (f : ProtoFlag) : tableOf (s.clearFlag k f) = tableOf s :=
  map_identity_modify _ _ _ fun _ => rfl

/-- An update of every entry's flags leaves the table. -/
theorem map_identity_map (dev : List Entry) (u : Entry → Entry) (h : ∀ e, (u e).identity = e.identity) :
    (dev.map u).map Entry.identity = dev.map Entry.identity := by
  simp [Function.comp_def, h]

end Sys2Proof.Machine
end

