-- ==== Sys2Proof/Laws/Control.lean ====
section
/-! SUPPORT. All that the shared operations of control can do: masking, the ATN fall, and a failure on its way to the
tick. -/

namespace Sys2Proof.Machine

/-- A sequence answers a next state through a next state of its first part. -/
theorem andThen_next {r : Res} {f : State → Res} {t : State} :
    andThen r f = .next t ↔ ∃ s, r = .next s ∧ f s = .next t := by
  cases r <;> simp [andThen]

/-- All that `mask_irq()` can do (40_timing R416). -/
theorem maskIrq_next {s t : State} :
    maskIrq s = .next t ↔ s.fl.irqMasked = false ∧ t = { s with fl := { s.fl with irqMasked := true } } := by
  unfold maskIrq
  cases s.fl.irqMasked <;> simp [eq_comm]

/-- With nothing latched, `unmask_irq()` only clears the mask. -/
theorem unmaskIrq_idle {s : State} (h : s.fl.irqPending = false) :
    unmaskIrq s = { s with fl := { s.fl with irqMasked := false } } := by simp [unmaskIrq, h]

/-- Inside a tick `unmask_irq()` clears the mask and the latch, and runs nothing (45_scheduler R912). -/
theorem unmaskIrq_inTick {s : State} (h : s.fl.inTick = true) :
    unmaskIrq s = { s with fl := { s.fl with irqMasked := false, irqPending := false } } := by
  unfold unmaskIrq atnIsr
  cases hp : s.fl.irqPending <;> simp [h]
  obtain ⟨_, _, ⟨_, _, _, _, _⟩⟩ := s
  simp_all

/-- What a failure does first, inside a tick: both flags of the mask and the parallel direction are clear, and nothing
else changes (60_exceptions R1001). -/
theorem unguard_inTick {s : State} (h : s.fl.inTick = true) :
    (unguard s).fl.irqMasked = false ∧ (unguard s).drv.parOutMode = false ∧
      unguard s = { s with fl := (unguard s).fl, drv := { s.drv with parOutMode := (unguard s).drv.parOutMode } } ∧
      (unguard s).fl.inTick = true ∧ (unguard s).fl.atnActive = s.fl.atnActive := by
  simp only [unguard, unmaskIrq_inTick h]
  cases hm : s.fl.irqMasked <;> cases hp : s.drv.parOutMode <;> simp [parInput, hm, hp, h]
  all_goals
    obtain ⟨_, _, ⟨_, _, _, _, _⟩, _, _, _, ⟨_, _, _, _, _, _⟩⟩ := s
    simp_all

/-- A failure of a kind that rules fail with goes through the callers. -/
theorem failWith_next {kind : ErrKind} (h1 : kind ≠ .notAddressed) (h2 : kind ≠ .verifyError) (s : State) :
    failWith kind s = .next (unwind kind s.seq (unguard s)) := by
  cases kind <;> first | rfl | contradiction

/-- A failure passes the statements that do not catch it. -/
theorem unwind_passes (kind : ErrKind) (frames r : List Pos) (s : State) (hf : ∀ f ∈ frames, f.catches = false) :
    unwind kind (frames ++ r) s = unwind kind r s := by
  induction frames with
  | nil => rfl
  | cons f fs ih =>
    have h1 := hf f (by simp)
    rw [← ih fun g hg => hf g (by simp [hg])]
    simp only [List.cons_append]
    unfold Pos.catches at h1
    split at h1 <;> first | exact absurd h1 (by decide) | skip
    rw [unwind]
    all_goals intros; simp_all

end Sys2Proof.Machine
end

