-- ==== Sys2Proof/Laws/Decode.lean ====
section
/-! SUPPORT. The fields of an encoding, and what each one-byte decoder can answer. -/

namespace Sys2Proof

@[simp] theorem loByte_addr16 (lo hi : Byte) : loByte (addr16 lo hi) = lo := by
  apply BitVec.eq_of_getLsbD_eq
  intro i h
  simp only [addr16, loByte, BitVec.getLsbD_extractLsb', BitVec.getLsbD_append]
  simp [h]

@[simp] theorem hiByte_addr16 (lo hi : Byte) : hiByte (addr16 lo hi) = hi := by
  apply BitVec.eq_of_getLsbD_eq
  intro i h
  simp only [addr16, hiByte, BitVec.getLsbD_extractLsb', BitVec.getLsbD_append]
  simp [h]

@[simp] theorem addr16_parts (a : BitVec 16) : addr16 (loByte a) (hiByte a) = a := by
  apply BitVec.eq_of_getLsbD_eq
  intro i h
  simp only [addr16, loByte, hiByte, BitVec.getLsbD_append, BitVec.getLsbD_extractLsb']
  split
  · next h => simp [h]
  · next h' =>
    have h8 : i - 8 < 8 := by omega
    have h9 : 8 + (i - 8) = i := by omega
    simp [h8, h9]

/-- A decoded command of a one-byte format comes from a first byte. -/
theorem decode_one {f : Format} {bytes : List Byte} {i : Instr} (hf : f ≠ .cmd15) (h : decode f bytes = .ok i) :
    ∃ b rest, bytes = b :: rest ∧
      i = match f with
        | .pri => decodePrimary b
        | .sec => decodeSecondary b
        | .epyxSum => decodeEpyxSum b
        | _ => .epyxHdr b := by
  cases bytes with
  | nil => cases f <;> first | exact absurd rfl hf | cases h
  | cons b rest => exact ⟨b, rest, rfl, by cases f <;> first | exact absurd rfl hf | exact (Except.ok.inj h).symm⟩

end Sys2Proof
end

