-- ==== Sys2Proof/Laws/Memory.lean ====
section
/-! SUPPORT. The two byte memories: reading after writing, the canonical form, and what each buffer operation can do. -/

namespace Sys2Proof.Machine

theorem memGet_memSet (m : Memory) (i j : Nat) (b : Byte) :
    memGet (memSet m i b) j = if j = i then some b else memGet m j := by
  induction m with
  | nil => simp only [memSet, memGet, eq_comm]
  | cons c m ih =>
    simp only [memSet]
    by_cases h : i < c.1
    · rw [if_pos h]; by_cases hj : j = i
      · subst hj; simp [memGet]
      · simp [memGet, hj, Ne.symm hj]
    · rw [if_neg h]; by_cases hi : i = c.1
      · rw [if_pos hi]; by_cases hj : j = i
        · subst hj; simp [memGet]
        · have : ¬ c.1 = j := by omega
          simp [memGet, hj, Ne.symm hj, this]
      · rw [if_neg hi]; by_cases hj : c.1 = j
        · have : ¬ j = i := by omega
          simp [memGet, hj, this]
        · simp [memGet, hj, ih]

@[simp] theorem memGet_memSet_same (m : Memory) (i : Nat) (b : Byte) : memGet (memSet m i b) i = some b := by
  simp [memGet_memSet]

theorem memGet_memSet_other (m : Memory) {i j : Nat} (b : Byte) (h : j ≠ i) :
    memGet (memSet m i b) j = memGet m j := by simp [memGet_memSet, h]

/-- The first listed index after a write. -/
theorem memSet_wf_head (lo : Nat) (m : Memory) (i : Nat) (b : Byte)
    (hlo : lo < i) (hm : ∀ c ∈ m.head?, lo < c.1) : ∀ c ∈ (memSet m i b).head?, lo < c.1 := by
  cases m with
  | nil => simp [memSet, hlo]
  | cons c m =>
    simp only [memSet]
    split
    · simp [hlo]
    · split
      · simp [hlo]
      · simpa using hm

theorem wf_cons (c : Host.Cell) (m : Memory) :
    Memory.wf (c :: m) = true ↔ (∀ d ∈ m.head?, c.1 < d.1) ∧ Memory.wf m = true := by
  cases m <;> simp [Memory.wf]

/-- A write keeps the canonical form. -/
theorem memSet_wf (m : Memory) (i : Nat) (b : Byte) (h : Memory.wf m = true) : Memory.wf (memSet m i b) = true := by
  induction m with
  | nil => rfl
  | cons c m ih =>
    have hc := (wf_cons c m).1 h
    simp only [memSet]
    split
    · next hi => exact (wf_cons _ _).2 ⟨by simp [hi], h⟩
    · split
      · next hi => exact (wf_cons _ _).2 ⟨by simpa [hi] using hc.1, hc.2⟩
      · next hi hne => exact (wf_cons _ _).2 ⟨memSet_wf_head _ _ _ _ (by omega) hc.1, ih hc.2⟩

/-- A write inside the range stays inside it. -/
theorem memSet_below (n : Nat) (m : Memory) (i : Nat) (b : Byte) (hi : i < n) (h : Memory.below n m = true) :
    Memory.below n (memSet m i b) = true := by
  induction m with
  | nil => simp [memSet, Memory.below, hi]
  | cons c m ih =>
    simp only [Memory.below, List.all_cons, Bool.and_eq_true, decide_eq_true_eq] at h ih
    simp only [memSet]
    split
    · simp [Memory.below, hi, h.1]; simpa using h.2
    · split
      · simp [Memory.below, hi]; simpa using h.2
      · simp only [Memory.below, List.all_cons, Bool.and_eq_true, decide_eq_true_eq]
        exact ⟨h.1, ih h.2⟩

theorem filled_iff (n : Nat) (m : Memory) :
    Memory.filled n m = true ↔ ∀ i < n, (memGet m i).isSome = true := by
  simp [Memory.filled]

/-- A write at the end of the filled part fills one more. -/
theorem memSet_filled (n : Nat) (m : Memory) (b : Byte) (h : Memory.filled n m = true) :
    Memory.filled (n + 1) (memSet m n b) = true := by
  rw [filled_iff] at *
  intro i hi
  rw [memGet_memSet]
  split
  · rfl
  · exact h i (by omega)

/-- The reset memories have the canonical form. -/
theorem reset_memory_wf : Memory.wf State.reset.buf = true ∧ Memory.wf State.reset.cmd.buf = true := ⟨rfl, rfl⟩

/-- All that `buf[i] <- b` can do. -/
theorem bufWrite_next {i : Nat} {b : Byte} {s t : State} (h : bufWrite i b s = .next t) :
    i < s.cfg.bufSize ∧ t = { s with buf := memSet s.buf i b } := by
  unfold bufWrite at h
  split at h
  · next hi => exact ⟨hi, by simpa using h.symm⟩
  · cases h

theorem bufWrite_eq {i : Nat} {s : State} (b : Byte) (h : i < s.cfg.bufSize) :
    bufWrite i b s = .next { s with buf := memSet s.buf i b } := by simp [bufWrite, h]

/-- All that `buf[i]` can answer. -/
theorem memRead_ok {size : Nat} {m : Memory} {i : Nat} {b : Byte} (h : memRead size m i = .ok b) :
    i < size ∧ memGet m i = some b := by
  unfold memRead at h
  split at h
  · next hi =>
    refine ⟨hi, ?_⟩
    split at h
    · next b' hb => simpa [hb] using h
    · cases h
  · cases h

/-- A run of reads answers as many bytes as were asked for, each the byte at its index. -/
theorem memBytes_ok {size : Nat} {m : Memory} {i n : Nat} {bs : List Byte} (h : memBytes size m i n = .ok bs) :
    bs.length = n ∧ ∀ j (hj : j < bs.length), memGet m (i + j) = some bs[j] := by
  induction n generalizing i bs with
  | zero => simp only [memBytes, Except.ok.injEq] at h; subst h; simp
  | succ n ih =>
    simp only [memBytes] at h
    split at h
    · cases h
    · next b hb =>
      split at h
      · cases h
      · next cs hcs =>
        simp only [Except.ok.injEq] at h
        subst h
        obtain ⟨hl, hr⟩ := ih hcs
        refine ⟨by simp [hl], fun j hj => ?_⟩
        cases j with
        | zero => simpa using (memRead_ok hb).2
        | succ j =>
          have := hr j (by simpa using hj)
          simpa [Nat.add_assoc, Nat.add_comm 1 j] using this

/-- All that filling `buf` can do: the canonical form, the range, and every other field are kept. -/
theorem bufFill_next {bs : List Byte} {i : Nat} {s t : State} (h : bufFill i bs s = .next t) :
    (∃ m, t = { s with buf := m } ∧
      (Memory.wf s.buf = true → Memory.wf m = true) ∧
      (Memory.below s.cfg.bufSize s.buf = true → Memory.below s.cfg.bufSize m = true)) := by
  induction bs generalizing i s with
  | nil => simp only [bufFill, Host.Outcome.next.injEq] at h; subst h; exact ⟨s.buf, rfl, id, id⟩
  | cons b bs ih =>
    simp only [bufFill, andThen] at h
    split at h
    · next u hu =>
      obtain ⟨hi, rfl⟩ := bufWrite_next hu
      obtain ⟨m, rfl, hw, hb⟩ := ih h
      exact ⟨m, rfl, fun hs => hw (memSet_wf _ _ _ hs), fun hs => hb (memSet_below _ _ _ _ hi hs)⟩
    · cases h
    · cases h

/-- All that `cmd_append` does. -/
theorem cmdAppend_cases (b : Byte) (s : State) :
    (s.cmd.len < s.cfg.cmd15Max ∧
      cmdAppend b s = { s with cmd := { s.cmd with buf := memSet s.cmd.buf s.cmd.len b, len := s.cmd.len + 1 } }) ∨
    (s.cfg.cmd15Max ≤ s.cmd.len ∧ cmdAppend b s = { s with cmd := { s.cmd with overflow := true } }) := by
  unfold cmdAppend
  split
  · next h => exact .inl ⟨h, rfl⟩
  · next h => exact .inr ⟨by omega, rfl⟩

end Sys2Proof.Machine
end

