-- ==== Sys2Proof/Laws/Invariant.lean ====
section
/-! SUPPORT. `Inv` through the shared operations: an operation on fields it does not speak of leaves it as it is, and
each operation on the others keeps it. -/

namespace Sys2Proof.Machine

/-- The next state of an answer, if there is one, has `Inv`. -/
def ResInv (r : Res) : Prop :=
  match r with
  | .next t => Inv t
  | .fault _ => True
  | .refused _ => True

@[simp] theorem resInv_next (s : State) : ResInv (.next s) ↔ Inv s := Iff.rfl

@[simp] theorem resInv_fault (e : Fault) : ResInv (.fault e) := trivial

@[simp] theorem resInv_refused (e : Refusal) : ResInv (.refused e) := trivial

theorem resInv_andThen {r : Res} {f : State → Res} (hr : ResInv r) (hf : ∀ s, Inv s → ResInv (f s)) :
    ResInv (andThen r f) := by
  cases r with
  | next s => exact hf s hr
  | fault e => trivial
  | refused e => trivial

/-! ## Updates of fields that `Inv` does not speak of -/

@[simp] theorem inv_push (ps : List Pos) (s : State) : Inv (s.push ps) ↔ Inv s := Iff.rfl

@[simp] theorem inv_pop (s : State) : Inv s.pop ↔ Inv s := Iff.rfl

@[simp] theorem inv_call (c : DevCall) (ps : List Pos) (s : State) : Inv (s.call c ps) ↔ Inv s := Iff.rfl

@[simp] theorem inv_waitFor (l : Line) (lvl : Level) (t : Nat) (ps : List Pos) (s : State) :
    Inv (s.waitFor l lvl t ps) ↔ Inv s := Iff.rfl

@[simp] theorem inv_tryWait (l : Line) (lvl : Level) (t : Nat) (ps : List Pos) (s : State) :
    Inv (s.tryWait l lvl t ps) ↔ Inv s := Iff.rfl

@[simp] theorem inv_hold (t : Nat) (ps : List Pos) (s : State) : Inv (s.hold t ps) ↔ Inv s := Iff.rfl

@[simp] theorem inv_waitHalf (t0 : Micros) (half : Nat) (ps : List Pos) (s : State) :
    Inv (s.waitHalf t0 half ps) ↔ Inv s := Iff.rfl

@[simp] theorem inv_waitHr (edge : Level) (t : Nat) (strict : Bool) (ps : List Pos) (s : State) :
    Inv (s.waitHr edge t strict ps) ↔ Inv s := Iff.rfl

@[simp] theorem inv_burstClk (busy : Bool) (s : State) : Inv (burstClk busy s) ↔ Inv s := Iff.rfl


@[simp] theorem inv_setClk (on : Bool) (s : State) : Inv (setClk on s) ↔ Inv s := Iff.rfl

@[simp] theorem inv_setData (on : Bool) (s : State) : Inv (setData on s) ↔ Inv s := Iff.rfl

@[simp] theorem inv_releaseBoth (s : State) : Inv (releaseBoth s) ↔ Inv s := Iff.rfl

@[simp] theorem inv_setLines (l : Level × Level) (s : State) : Inv (setLines l s) ↔ Inv s := Iff.rfl

@[simp] theorem inv_setPrimary (rx : Byte) (s : State) : Inv (setPrimary rx s) ↔ Inv s := Iff.rfl

@[simp] theorem inv_setMode (m : Mode) (s : State) : Inv (setMode m s) ↔ Inv s := Iff.rfl

@[simp] theorem inv_setInTick (b : Bool) (s : State) : Inv (setInTick b s) ↔ Inv s := Iff.rfl

@[simp] theorem inv_noteSent (s : State) : Inv (noteSent s) ↔ Inv s := Iff.rfl

@[simp] theorem inv_goIdle (s : State) : Inv (goIdle s) ↔ Inv s := Iff.rfl

@[simp] theorem inv_unlistenEnd (s : State) : Inv (unlistenEnd s) ↔ Inv s := Iff.rfl

@[simp] theorem inv_advanceClock (dt : Micros) (s : State) : Inv (advanceClock dt s) ↔ Inv s := Iff.rfl

/-- `Inv` does not speak of the sequencer. -/
theorem inv_seq (ps : List Pos) (s : State) : Inv { s with seq := ps } ↔ Inv s := Iff.rfl

/-- `Inv` does not speak of what a routine passes on. -/
theorem inv_work (w : Work) (s : State) : Inv { s with work := w } ↔ Inv s := Iff.rfl

/-! ## Drivers -/

theorem inv_setHt {s : State} (on : Bool) (h : Inv s) : Inv (setHt on s) := by
  unfold setHt
  split
  · next hp => exact ⟨h.1, h.2.1, ⟨h.2.2.1.1, by simp [hp], h.2.2.1.2.2⟩, h.2.2.2⟩
  · exact h

theorem inv_override {s : State} (on : Bool) (h : Inv s) : Inv (override on s) := by
  unfold override
  split
  · next hp => exact ⟨h.1, h.2.1, ⟨by simp [hp], h.2.2.1.2⟩, h.2.2.2⟩
  · exact h

theorem inv_parOutput {s : State} (b : Byte) (h : Inv s) : Inv (parOutput b s) := by
  unfold parOutput
  split
  · next hp => exact ⟨h.1, h.2.1, ⟨h.2.2.1.1, by simp [hp], h.2.2.1.2.2⟩, h.2.2.2⟩
  · exact h

theorem inv_parInput {s : State} (h : Inv s) : Inv (parInput s) :=
  ⟨h.1, h.2.1, ⟨h.2.2.1.1, fun hp => ⟨rfl, (h.2.2.1.2.1 hp).2⟩, h.2.2.1.2.2⟩, h.2.2.2⟩

theorem inv_driveLine {s : State} (l : Line) (on : Bool) (h : Inv s) : ResInv (driveLine l on s) := by
  cases l with
  | clk => exact h
  | data => exact h
  | ctrl => exact inv_override on h
  | ht => exact inv_setHt on h
  | par k => simp only [driveLine]; split <;> exact h
  | atn => trivial
  | reset => trivial
  | hr => trivial

theorem inv_pulseLow {s : State} (l : Line) (t : Nat) (strict : Bool) (ps : List Pos) (h : Inv s) :
    ResInv (pulseLow l t strict ps s) := resInv_andThen (inv_driveLine l true h) fun _ h => h

/-! ## The table -/

/-- A table whose entries keep their identity and gain no hardwired flag keeps `tableOk`. -/
theorem inv_dev {s : State} (g : List Entry)
    (hid : g.map Entry.identity = s.dev.map Entry.identity)
    (hfl : ∀ e ∈ g, e.flags &&& ~~~wiredMask s.cfg = 0) (h : Inv s) : Inv { s with dev := g } := by
  obtain ⟨⟨hl, hn, he⟩, hb, hw, hc⟩ := h
  have ha : g.map Entry.address = s.dev.map Entry.address := by
    have := congrArg (List.map fun x => x.2.1) hid
    simpa [Entry.identity, Function.comp_def] using this
  refine ⟨⟨?_, ?_, ?_⟩, hb, hw, hc⟩
  · have := congrArg List.length hid
    simp only [List.length_map] at this
    show g.length ≤ s.cfg.maxDevices
    omega
  · show (g.map Entry.address).Nodup
    rw [ha]; exact hn
  · intro e heg
    have hmem : e.identity ∈ s.dev.map Entry.identity := hid ▸ List.mem_map_of_mem heg
    obtain ⟨e', he', hee⟩ := List.mem_map.1 hmem
    simp only [Entry.identity, Prod.mk.injEq] at hee
    have := he e' he'
    exact ⟨hee.1 ▸ this.1, hee.2.1 ▸ this.2.1, hfl e heg, hee.2.2.2 ▸ this.2.2.2⟩

theorem set_wired (w f m : BitVec 12) (h : f &&& ~~~w = 0) : (f ||| (m &&& w)) &&& ~~~w = 0 := by
  apply BitVec.eq_of_getLsbD_eq
  intro i hi
  have := congrArg (fun x => x.getLsbD i) h
  simp only [BitVec.getLsbD_and, BitVec.getLsbD_not, BitVec.getLsbD_or] at *
  simp only [hi, decide_true, Bool.true_and] at *
  revert this
  cases f.getLsbD i <;> cases w.getLsbD i <;> cases m.getLsbD i <;> simp

theorem and_wired (w f m : BitVec 12) (h : f &&& ~~~w = 0) : (f &&& m) &&& ~~~w = 0 := by
  rw [BitVec.and_assoc, BitVec.and_comm m, ← BitVec.and_assoc, h]
  simp

theorem mem_modify {dev : List Entry} {k : Nat} {f : Entry → Entry} {e : Entry} (h : e ∈ dev.modify k f) :
    ∃ d ∈ dev, e = d ∨ e = f d := by
  obtain ⟨i, hi⟩ := List.mem_iff_getElem?.1 h
  rw [List.getElem?_modify] at hi
  cases hd : dev[i]? with
  | none => simp [hd] at hi
  | some d =>
    refine ⟨d, List.mem_of_getElem? hd, ?_⟩
    rw [hd] at hi
    split at hi
    · exact .inr (Option.some.inj hi).symm
    · exact .inl (Option.some.inj hi).symm

theorem inv_setFlag {s : State} (k : Nat) (f : ProtoFlag) (h : Inv s) : Inv (s.setFlag k f) := by
  refine inv_dev _ (map_identity_modify _ _ _ fun _ => rfl) ?_ h
  intro e he
  obtain ⟨d, hd, rfl | rfl⟩ := mem_modify he
  · exact (h.1.2.2 _ hd).2.2.1
  · exact set_wired _ _ _ (h.1.2.2 _ hd).2.2.1

theorem inv_clearFlag {s : State} (k : Nat) (f : ProtoFlag) (h : Inv s) : Inv (s.clearFlag k f) := by
  refine inv_dev _ (map_identity_modify _ _ _ fun _ => rfl) ?_ h
  intro e he
  obtain ⟨d, hd, rfl | rfl⟩ := mem_modify he
  · exact (h.1.2.2 _ hd).2.2.1
  · exact and_wired _ _ _ (h.1.2.2 _ hd).2.2.1

/-! ## ATN, masks and failures -/

theorem inv_atnFall {s : State} (h : Inv s) : Inv (atnFall s) := by
  have h' : Inv (override false (setData true (setClk false s))) := inv_override false h
  have hdev : (override false (setData true (setClk false s))).dev = s.dev := by simp
  have hcfg : (override false (setData true (setClk false s))).cfg = s.cfg := by simp
  refine (?_ : Inv { override false (setData true (setClk false s)) with
    dev := (override false (setData true (setClk false s))).dev.map Entry.dropTransient })
  refine inv_dev _ ?_ ?_ h'
  · rw [List.map_map]
    apply List.map_congr_left
    intro e _
    simp only [Function.comp, Entry.dropTransient]
    split <;> rfl
  · intro e he
    obtain ⟨d, hd, rfl⟩ := List.mem_map.1 he
    have := (h'.1.2.2 d hd).2.2.1
    simp only [Entry.dropTransient]
    split
    · exact and_wired _ _ _ this
    · exact this

theorem inv_atnIsr {s : State} (ha : s.cfg.hasAtnIrq = true ∨ s.fl.irqMasked = false) (h : Inv s) : Inv (atnIsr s) := by
  unfold atnIsr
  split
  · next hm =>
    refine ⟨h.1, h.2.1, ⟨h.2.2.1.1, h.2.2.1.2.1, h.2.2.1.2.2.1, fun _ => ?_⟩, h.2.2.2⟩
    rcases ha with ha | ha
    · exact ha
    · simp [ha] at hm
  · split
    · exact h
    · split
      · exact inv_atnFall h
      · exact h

theorem inv_maskIrq {s : State} (h : Inv s) : ResInv (maskIrq s) := by
  unfold maskIrq
  split
  · trivial
  · exact h

theorem inv_unmaskIrq {s : State} (h : Inv s) : Inv (unmaskIrq s) := by
  unfold unmaskIrq
  split
  · exact inv_atnIsr (.inr rfl) ⟨h.1, h.2.1, ⟨h.2.2.1.1, h.2.2.1.2.1, h.2.2.1.2.2.1, by simp⟩, h.2.2.2⟩
  · exact h

theorem inv_onFail {s : State} (kind : ErrKind) (h : Inv s) : Inv (onFail kind s) := by
  cases kind <;> exact h

theorem inv_unwind (kind : ErrKind) (ps : List Pos) {s : State} (h : Inv s) : Inv (unwind kind ps s) := by
  induction ps generalizing s with
  | nil => exact inv_onFail kind h
  | cons p r ih =>
    unfold unwind
    split
    · exact inv_onFail kind h
    all_goals first
      | exact inv_onFail kind h
      | exact h
      | (next heq => cases heq; exact ih (inv_parInput ((inv_setClk _ _).2 h)))
      | (next heq => cases heq; exact ih h)

theorem inv_unguard {s : State} (h : Inv s) : Inv (unguard s) := by
  have h1 : Inv (if s.fl.irqMasked then unmaskIrq s else s) := by
    split
    · exact inv_unmaskIrq h
    · exact h
  generalize hu : (if s.fl.irqMasked then unmaskIrq s else s) = u at h1
  simp only [unguard, hu]
  split
  · exact inv_parInput h1
  · exact h1

theorem inv_failWith {s : State} (kind : ErrKind) (h : Inv s) : ResInv (failWith kind s) := by
  cases kind <;> first | trivial | exact inv_unwind _ _ (inv_unguard h)

theorem inv_settle {s : State} (r : WaitResult) (h : Inv s) : ResInv (settle r s) := by
  cases r <;> first | exact h | exact inv_failWith .atnPreempted h | exact inv_failWith .timeoutMissedEdge h

theorem inv_finishWait {s : State} (strict : Bool) (r : WaitResult) (h : Inv s) : ResInv (finishWait strict r s) := by
  unfold finishWait
  split
  · exact inv_settle r h
  · exact h

theorem inv_atnRequest {s : State} (h : Inv s) : Inv (atnRequest s) := by
  unfold atnRequest
  split
  · exact inv_atnFall h
  · split <;> exact h

/-! ## Buffers -/

theorem inv_bufWrite {s : State} (i : Nat) (b : Byte) (h : Inv s) : ResInv (bufWrite i b s) := by
  unfold bufWrite
  split
  · next hi =>
    exact ⟨h.1, ⟨memSet_wf _ _ _ h.2.1.1, memSet_below _ _ _ _ hi h.2.1.2.1, h.2.1.2.2⟩, h.2.2⟩
  · trivial

theorem inv_bufFill {s : State} (i : Nat) (bs : List Byte) (h : Inv s) : ResInv (bufFill i bs s) := by
  induction bs generalizing i s with
  | nil => exact h
  | cons b bs ih => exact resInv_andThen (inv_bufWrite i b h) fun _ h => ih _ h

theorem inv_cmdAppend {s : State} (b : Byte) (h : Inv s) : Inv (cmdAppend b s) := by
  obtain ⟨h1, ⟨hb, hb', hw, hl, hn, hf⟩, h3⟩ := h
  rcases cmdAppend_cases b s with ⟨hlt, heq⟩ | ⟨_, heq⟩
  · rw [heq]
    exact ⟨h1, ⟨hb, hb', memSet_wf _ _ _ hw, memSet_below _ _ _ _ hlt hl, hlt, memSet_filled _ _ _ hf⟩, h3⟩
  · rw [heq]; exact ⟨h1, ⟨hb, hb', hw, hl, hn, hf⟩, h3⟩

/-- Counts of held and captured bytes in their range keep `Inv`. -/
theorem inv_dol {s : State} (d : DolRegs) (hp : d.preN ≤ s.cfg.prebufferBytes) (hd : d.capN ≤ s.cfg.prebufferBytes)
    (h : Inv s) : Inv { s with dol := d } := ⟨h.1, h.2.1, h.2.2.1, ⟨hp, hd⟩, h.2.2.2.2⟩

theorem inv_dropCapture {s : State} (h : Inv s) : Inv (dropCapture s) :=
  inv_dol _ h.2.2.2.1.1 (Nat.zero_le _) h

theorem inv_dolFlush {s : State} (ps : List Pos) (h : Inv s) : ResInv (dolFlush ps s) := by
  unfold dolFlush
  split
  · trivial
  · exact inv_dol _ (Nat.zero_le _) h.2.2.2.1.2 h

theorem inv_flushThen {s : State} (p : Pos) {f : State → Res} (hf : ∀ t, Inv t → ResInv (f t)) (h : Inv s) :
    ResInv (flushThen p f s) := by
  unfold flushThen
  split
  · exact hf s h
  · exact inv_dolFlush _ h

theorem inv_flushBeforeCall {s : State} (k : Nat) (l : Bool) (sec : Byte) (p : Pos) {f : State → Res}
    (hf : ∀ t, Inv t → ResInv (f t)) (h : Inv s) : ResInv (flushBeforeCall k l sec p f s) := by
  unfold flushBeforeCall
  split
  · exact hf s h
  · exact inv_flushThen p hf h

theorem inv_dolHold {s : State} (k : Nat) (b : Byte) (eoi : Bool) {f : State → Res}
    (hf : ∀ t, Inv t → ResInv (f t)) (h : Inv s) : ResInv (dolHold k b eoi f s) := by
  unfold dolHold
  split
  · next hc =>
    simp only [bufWrite]
    split
    · next hi =>
      have h' := inv_bufWrite s.dol.preN b h
      simp only [bufWrite, hi, if_true] at h'
      refine inv_dol _ hc.2.2.2 ?_ h'
      show (if _ then _ else _) ≤ _
      split
      · exact Nat.zero_le _
      · exact h.2.2.2.1.2
    · trivial
  · exact hf s h

theorem inv_dolCapture {s : State} (b : Byte) (h : Inv s) : ResInv (dolCapture b s) := by
  unfold dolCapture
  split
  · next hc =>
    simp only [bufWrite]
    split
    · next hi =>
      have h' := inv_bufWrite s.dol.capN b h
      simp only [bufWrite, hi, if_true] at h'
      exact inv_dol _ h.2.2.2.1.1 hc h'
    · trivial
  · exact h

theorem inv_deliver {s : State} (k : Nat) (b : Byte) (eoi : Bool) (h : Inv s) : ResInv (deliver k b eoi s) := by
  have h' : Inv (if s.sel.listenerSec = 0x6F then cmdAppend b s else s) := by
    split
    · exact inv_cmdAppend b h
    · exact h
  generalize hu : (if s.sel.listenerSec = 0x6F then cmdAppend b s else s) = u at h'
  simp only [deliver, hu]
  split
  · exact inv_dolFlush _ h'
  · exact h'

theorem inv_withCurrent {s : State} {f : Nat → Res} (hf : ∀ k, ResInv (f k)) : ResInv (withCurrent s f) := by
  unfold withCurrent
  split
  · exact hf _
  · trivial

/-! ## Epyx registers -/

theorem inv_epyxReset {s : State} (h : Inv s) : Inv (epyxReset s) := by
  unfold epyxReset
  split
  · exact ⟨h.1, h.2.1, h.2.2.1, h.2.2.2.1, by simp, h.2.2.2.2.2⟩
  · exact h

theorem inv_epyxMw {s : State} (k : Nat) (addr : BitVec 16) (len : Byte) (bs : List Byte) (h : Inv s) :
    Inv (epyxMw k addr len bs s) := by
  unfold epyxMw
  split
  · exact inv_epyxReset h
  · split
    · exact inv_epyxReset h
    · dsimp only
      split
      · next hc =>
        refine ⟨h.1, h.2.1, h.2.2.1, h.2.2.2.1, ?_, h.2.2.2.2.2⟩
        show ((2 : Fin 3) = 0 ↔ s.epyx.ver = none)
        simp only [epyxContinues, Bool.and_eq_true] at hc
        cases hv : s.epyx.ver with
        | none => simp [hv] at hc
        | some v => simp
      · split
        · exact ⟨h.1, h.2.1, h.2.2.1, h.2.2.2.1, by simp, h.2.2.2.2.2⟩
        · exact inv_epyxReset h

theorem inv_epyxMe {s : State} (k : Nat) (addr : BitVec 16) (h : Inv s) : Inv (epyxMe k addr s) := by
  unfold epyxMe
  split
  · exact inv_epyxReset (inv_setFlag _ _ h)
  · exact inv_epyxReset h

end Sys2Proof.Machine
end

