-- ==== Sys2Proof/Laws/Mode.lean ====
section
/-! SUPPORT. Addressing, selection and mode through the shared operations (10_state R101, R103): an operation keeps
them, or the ATN fall has come. -/

namespace Sys2Proof.Machine

/-- From `s` to `t` the addressing registers, the selected device, the mode and `atn_active` are kept, or the ATN fall has
come. -/
def RoleKept (s t : State) : Prop :=
  (t.addr = s.addr ∧ t.sel.current = s.sel.current ∧ t.bus.mode = s.bus.mode ∧ t.fl.atnActive = s.fl.atnActive) ∨
    (t.bus.mode = .underAtn ∧ t.fl.atnActive = true ∧ t.sel.current = none)

/-- The next state of an answer, if there is one, is kept from `s`. -/
def ResKept (s : State) (r : Res) : Prop :=
  match r with
  | .next t => RoleKept s t
  | .fault _ => True
  | .refused _ => True

variable {s₀ : State}

@[simp] theorem resKept_next (s : State) : ResKept s₀ (.next s) ↔ RoleKept s₀ s := Iff.rfl

theorem resKept_andThen {r : Res} {f : State → Res} (hr : ResKept s₀ r) (hf : ∀ s, RoleKept s₀ s → ResKept s₀ (f s)) :
    ResKept s₀ (andThen r f) := by
  cases r with
  | next s => exact hf s hr
  | fault e => trivial
  | refused e => trivial

@[simp] theorem kept_push (ps : List Pos) (s : State) : RoleKept s₀ (s.push ps) ↔ RoleKept s₀ s := Iff.rfl

@[simp] theorem kept_pop (s : State) : RoleKept s₀ s.pop ↔ RoleKept s₀ s := Iff.rfl

@[simp] theorem kept_call (c : DevCall) (ps : List Pos) (s : State) :
    RoleKept s₀ (s.call c ps) ↔ RoleKept s₀ s := Iff.rfl

@[simp] theorem kept_waitFor (l : Line) (lvl : Level) (t : Nat) (ps : List Pos) (s : State) :
    RoleKept s₀ (s.waitFor l lvl t ps) ↔ RoleKept s₀ s := Iff.rfl

@[simp] theorem kept_tryWait (l : Line) (lvl : Level) (t : Nat) (ps : List Pos) (s : State) :
    RoleKept s₀ (s.tryWait l lvl t ps) ↔ RoleKept s₀ s := Iff.rfl

@[simp] theorem kept_hold (t : Nat) (ps : List Pos) (s : State) : RoleKept s₀ (s.hold t ps) ↔ RoleKept s₀ s := Iff.rfl

@[simp] theorem kept_waitHalf (t0 : Micros) (half : Nat) (ps : List Pos) (s : State) :
    RoleKept s₀ (s.waitHalf t0 half ps) ↔ RoleKept s₀ s := Iff.rfl

@[simp] theorem kept_waitHr (edge : Level) (t : Nat) (strict : Bool) (ps : List Pos) (s : State) :
    RoleKept s₀ (s.waitHr edge t strict ps) ↔ RoleKept s₀ s := Iff.rfl

@[simp] theorem kept_setClk (on : Bool) (s : State) : RoleKept s₀ (setClk on s) ↔ RoleKept s₀ s := Iff.rfl

@[simp] theorem kept_setData (on : Bool) (s : State) : RoleKept s₀ (setData on s) ↔ RoleKept s₀ s := Iff.rfl

@[simp] theorem kept_releaseBoth (s : State) : RoleKept s₀ (releaseBoth s) ↔ RoleKept s₀ s := Iff.rfl

@[simp] theorem kept_setLines (l : Level × Level) (s : State) : RoleKept s₀ (setLines l s) ↔ RoleKept s₀ s := Iff.rfl

@[simp] theorem kept_setInTick (b : Bool) (s : State) : RoleKept s₀ (setInTick b s) ↔ RoleKept s₀ s := Iff.rfl

@[simp] theorem kept_noteSent (s : State) : RoleKept s₀ (noteSent s) ↔ RoleKept s₀ s := Iff.rfl

@[simp] theorem kept_advanceClock (dt : Micros) (s : State) :
    RoleKept s₀ (advanceClock dt s) ↔ RoleKept s₀ s := Iff.rfl


@[simp] theorem kept_burstClk (busy : Bool) (s : State) : RoleKept s₀ (burstClk busy s) ↔ RoleKept s₀ s := Iff.rfl

theorem kept_seq (ps : List Pos) (s : State) : RoleKept s₀ { s with seq := ps } ↔ RoleKept s₀ s := Iff.rfl

theorem kept_work (w : Work) (s : State) : RoleKept s₀ { s with work := w } ↔ RoleKept s₀ s := Iff.rfl

theorem kept_setHt {s : State} (on : Bool) (h : RoleKept s₀ s) : RoleKept s₀ (setHt on s) := by
  unfold setHt; split <;> exact h

theorem kept_override {s : State} (on : Bool) (h : RoleKept s₀ s) : RoleKept s₀ (override on s) := by
  unfold override; split <;> exact h

theorem kept_parOutput {s : State} (b : Byte) (h : RoleKept s₀ s) : RoleKept s₀ (parOutput b s) := by
  unfold parOutput; split <;> exact h

theorem kept_parInput {s : State} (h : RoleKept s₀ s) : RoleKept s₀ (parInput s) := h

theorem kept_driveLine {s : State} (l : Line) (on : Bool) (h : RoleKept s₀ s) : ResKept s₀ (driveLine l on s) := by
  cases l with
  | clk => exact h
  | data => exact h
  | ctrl => exact kept_override on h
  | ht => exact kept_setHt on h
  | par k => simp only [driveLine]; split <;> exact h
  | atn => trivial
  | reset => trivial
  | hr => trivial

theorem kept_pulseLow {s : State} (l : Line) (t : Nat) (strict : Bool) (ps : List Pos) (h : RoleKept s₀ s) :
    ResKept s₀ (pulseLow l t strict ps s) := resKept_andThen (kept_driveLine l true h) fun _ h => h

theorem kept_setFlag {s : State} (k : Nat) (f : ProtoFlag) (h : RoleKept s₀ s) : RoleKept s₀ (s.setFlag k f) := h

theorem kept_clearFlag {s : State} (k : Nat) (f : ProtoFlag) (h : RoleKept s₀ s) : RoleKept s₀ (s.clearFlag k f) := h

theorem kept_atnFall {s : State} : RoleKept s₀ (atnFall s) := .inr ⟨rfl, rfl, rfl⟩

theorem kept_atnIsr {s : State} (h : RoleKept s₀ s) : RoleKept s₀ (atnIsr s) := by
  unfold atnIsr
  split
  · exact h
  · split
    · exact h
    · split
      · exact kept_atnFall
      · exact h

theorem kept_maskIrq {s : State} (h : RoleKept s₀ s) : ResKept s₀ (maskIrq s) := by
  unfold maskIrq
  split
  · trivial
  · exact h

theorem kept_unmaskIrq {s : State} (h : RoleKept s₀ s) : RoleKept s₀ (unmaskIrq s) := by
  unfold unmaskIrq
  split
  · exact kept_atnIsr h
  · exact h

theorem kept_onFail {s : State} (kind : ErrKind) (h : RoleKept s₀ s) : RoleKept s₀ (onFail kind s) := by
  cases kind <;> exact h

theorem kept_unwind (kind : ErrKind) (ps : List Pos) {s : State} (h :
    RoleKept s₀ s) : RoleKept s₀ (unwind kind ps s) := by
  induction ps generalizing s with
  | nil => exact kept_onFail kind h
  | cons p r ih =>
    unfold unwind
    split
    · exact kept_onFail kind h
    all_goals first
      | exact kept_onFail kind h
      | exact h
      | (next heq => cases heq; exact ih (kept_parInput ((kept_setClk _ _).2 h)))

theorem kept_unguard {s : State} (h : RoleKept s₀ s) : RoleKept s₀ (unguard s) := by
  have h1 : RoleKept s₀ (if s.fl.irqMasked then unmaskIrq s else s) := by
    split
    · exact kept_unmaskIrq h
    · exact h
  generalize hu : (if s.fl.irqMasked then unmaskIrq s else s) = u at h1
  simp only [unguard, hu]
  split
  · exact kept_parInput h1
  · exact h1

theorem kept_failWith {s : State} (kind : ErrKind) (h : RoleKept s₀ s) : ResKept s₀ (failWith kind s) := by
  cases kind <;> first | trivial | exact kept_unwind _ _ (kept_unguard h)

theorem kept_settle {s : State} (r : WaitResult) (h : RoleKept s₀ s) : ResKept s₀ (settle r s) := by
  cases r <;> first | exact h | exact kept_failWith .atnPreempted h | exact kept_failWith .timeoutMissedEdge h

theorem kept_finishWait {s : State} (strict : Bool) (r : WaitResult) (h :
    RoleKept s₀ s) : ResKept s₀ (finishWait strict r s) := by
  unfold finishWait
  split
  · exact kept_settle r h
  · exact h

theorem kept_bufWrite {s : State} (i : Nat) (b : Byte) (h : RoleKept s₀ s) : ResKept s₀ (bufWrite i b s) := by
  unfold bufWrite
  split
  · exact h
  · trivial

theorem kept_bufFill {s : State} (i : Nat) (bs : List Byte) (h : RoleKept s₀ s) : ResKept s₀ (bufFill i bs s) := by
  induction bs generalizing i s with
  | nil => exact h
  | cons b bs ih => exact resKept_andThen (kept_bufWrite i b h) fun _ h => ih _ h

theorem kept_cmdAppend {s : State} (b : Byte) (h : RoleKept s₀ s) : RoleKept s₀ (cmdAppend b s) := by
  unfold cmdAppend; split <;> exact h

theorem kept_dropCapture {s : State} (h : RoleKept s₀ s) : RoleKept s₀ (dropCapture s) := h

theorem kept_dolFlush {s : State} (ps : List Pos) (h : RoleKept s₀ s) : ResKept s₀ (dolFlush ps s) := by
  unfold dolFlush
  split
  · trivial
  · exact h

theorem kept_flushThen {s : State} (p : Pos) {f : State → Res} (hf : ∀ t, RoleKept s₀ t → ResKept s₀ (f t)) (h :
    RoleKept s₀ s) :
    ResKept s₀ (flushThen p f s) := by
  unfold flushThen
  split
  · exact hf s h
  · exact kept_dolFlush _ h

theorem kept_flushBeforeCall {s : State} (k : Nat) (l : Bool) (sec : Byte) (p : Pos) {f : State → Res}
    (hf : ∀ t, RoleKept s₀ t → ResKept s₀ (f t)) (h :
    RoleKept s₀ s) : ResKept s₀ (flushBeforeCall k l sec p f s) := by
  unfold flushBeforeCall
  split
  · exact hf s h
  · exact kept_flushThen p hf h

theorem kept_dolHold {s : State} (k : Nat) (b : Byte) (eoi : Bool) {f : State → Res}
    (hf : ∀ t, RoleKept s₀ t → ResKept s₀ (f t)) (h : RoleKept s₀ s) : ResKept s₀ (dolHold k b eoi f s) := by
  unfold dolHold
  split
  · simp only [bufWrite]; split
    · exact h
    · trivial
  · exact hf s h

theorem kept_dolCapture {s : State} (b : Byte) (h : RoleKept s₀ s) : ResKept s₀ (dolCapture b s) := by
  unfold dolCapture
  split
  · simp only [bufWrite]; split
    · exact h
    · trivial
  · exact h

theorem kept_deliver {s : State} (k : Nat) (b : Byte) (eoi : Bool) (h :
    RoleKept s₀ s) : ResKept s₀ (deliver k b eoi s) := by
  have h' : RoleKept s₀ (if s.sel.listenerSec = 0x6F then cmdAppend b s else s) := by
    split
    · exact kept_cmdAppend b h
    · exact h
  generalize hu : (if s.sel.listenerSec = 0x6F then cmdAppend b s else s) = u at h'
  simp only [deliver, hu]
  split
  · exact kept_dolFlush _ h'
  · exact h'

theorem kept_withCurrent {s : State} {f : Nat → Res} (hf : ∀ k, ResKept s₀ (f k)) : ResKept s₀ (withCurrent s f) := by
  unfold withCurrent
  split
  · exact hf _
  · trivial

theorem kept_epyxReset {s : State} (h : RoleKept s₀ s) : RoleKept s₀ (epyxReset s) := by
  unfold epyxReset
  split <;> exact h

theorem kept_epyxMw {s : State} (k : Nat) (addr : BitVec 16) (len : Byte) (bs : List Byte) (h : RoleKept s₀ s) :
    RoleKept s₀ (epyxMw k addr len bs s) := by
  unfold epyxMw
  split
  · exact kept_epyxReset h
  · split
    · exact kept_epyxReset h
    · dsimp only
      split
      · exact h
      · split
        · exact h
        · exact kept_epyxReset h

theorem kept_epyxMe {s : State} (k : Nat) (addr : BitVec 16) (h : RoleKept s₀ s) : RoleKept s₀ (epyxMe k addr s) := by
  unfold epyxMe
  split
  · exact kept_epyxReset (kept_setFlag _ _ h)
  · exact kept_epyxReset h

theorem kept_refl (s : State) : RoleKept s s := .inl ⟨rfl, rfl, rfl, rfl⟩

end Sys2Proof.Machine
end

