-- ==== Sys2Proof/Laws/PerInstr.lean ====
section
/-! SUPPORT. One family of statements, made for each command: the length of its encoding. -/

namespace Sys2Proof.Laws.EncodedLength

/-- A one-byte format's command is one byte, `M-W` is its header and its payload, and no command is empty
(30_encoding R300, R303 to R307). -/
def Statement (i : Instr) : Prop :=
  encode i ≠ [] ∧ (formatOf i ≠ .cmd15 → (encode i).length = 1) ∧
    (formatOf i = .cmd15 → 2 ≤ (encode i).length ∧ (i.wellFormed = true → (encode i).length ≤ 6 + 255))

theorem nullPrimary : Statement Instr.nullPrimary := by simp [Statement, encode, formatOf]

theorem unlisten : Statement Instr.unlisten := by simp [Statement, encode, formatOf]

theorem untalk : Statement Instr.untalk := by simp [Statement, encode, formatOf]

theorem listen (addr : BitVec 5) : Statement (Instr.listen addr) := by simp [Statement, encode, formatOf]

theorem talk (addr : BitVec 5) : Statement (Instr.talk addr) := by simp [Statement, encode, formatOf]

theorem reservedPrimaryLow (low : BitVec 5) : Statement (Instr.reservedPrimaryLow low) :=
    by simp [Statement, encode, formatOf]

theorem reservedPrimary60 (low : BitVec 5) : Statement (Instr.reservedPrimary60 low) :=
    by simp [Statement, encode, formatOf]

theorem reservedPrimary80 (low : BitVec 7) : Statement (Instr.reservedPrimary80 low) :=
    by simp [Statement, encode, formatOf]

theorem close15Ignored : Statement Instr.close15Ignored := by simp [Statement, encode, formatOf]

theorem dataCh (chan : BitVec 4) : Statement (Instr.dataCh chan) := by simp [Statement, encode, formatOf]

theorem closeCh (chan : BitVec 4) : Statement (Instr.closeCh chan) := by simp [Statement, encode, formatOf]

theorem openCh (chan : BitVec 4) : Statement (Instr.openCh chan) := by simp [Statement, encode, formatOf]

theorem reservedSecondary03 (grp : BitVec 2) (chan : BitVec 4) : Statement (Instr.reservedSecondary03 grp chan) :=
    by simp [Statement, encode, formatOf]

theorem reservedSecondary45 (grp : BitVec 1) (chan : BitVec 4) : Statement (Instr.reservedSecondary45 grp chan) :=
    by simp [Statement, encode, formatOf]

theorem reservedSecondary7 (chan : BitVec 4) : Statement (Instr.reservedSecondary7 chan) :=
    by simp [Statement, encode, formatOf]

theorem reservedSecondary8B (grp : BitVec 2) (chan : BitVec 4) : Statement (Instr.reservedSecondary8B grp chan) :=
    by simp [Statement, encode, formatOf]

theorem reservedSecondaryCD (grp : BitVec 1) (chan : BitVec 4) : Statement (Instr.reservedSecondaryCD grp chan) :=
    by simp [Statement, encode, formatOf]

theorem xq : Statement Instr.xq := by simp [Statement, encode, formatOf]

theorem xz : Statement Instr.xz := by simp [Statement, encode, formatOf]

theorem xfPlus : Statement Instr.xfPlus := by simp [Statement, encode, formatOf]

theorem xfMinus : Statement Instr.xfMinus := by simp [Statement, encode, formatOf]

theorem memWrite (addr : BitVec 16) (len : Byte) (payload : List Byte) : Statement (Instr.memWrite addr len payload) := by
  refine ⟨by simp [encode], fun h => absurd rfl h, fun _ => ⟨by simp [encode], fun h => ?_⟩⟩
  have := len.isLt
  simp only [Instr.wellFormed, decide_eq_true_eq] at h
  simp only [encode, List.length_append, List.length_cons, List.length_nil]
  omega

theorem memExecute (addr : BitVec 16) : Statement (Instr.memExecute addr) := by simp [Statement, encode, formatOf]

theorem epyxLoadV1 : Statement Instr.epyxLoadV1 := by simp [Statement, encode, formatOf]

theorem epyxLoadV2 : Statement Instr.epyxLoadV2 := by simp [Statement, encode, formatOf]

theorem epyxLoadV3 : Statement Instr.epyxLoadV3 := by simp [Statement, encode, formatOf]

theorem epyxSector0B : Statement Instr.epyxSector0B := by simp [Statement, encode, formatOf]

theorem epyxSectorB8 : Statement Instr.epyxSectorB8 := by simp [Statement, encode, formatOf]

theorem epyxSectorBA : Statement Instr.epyxSectorBA := by simp [Statement, encode, formatOf]

theorem epyxUnknownSum (sum : Byte) : Statement (Instr.epyxUnknownSum sum) := by simp [Statement, encode, formatOf]

theorem epyxHdr (len : Byte) : Statement (Instr.epyxHdr len) := by simp [Statement, encode, formatOf]

end Sys2Proof.Laws.EncodedLength
end

