-- ==== Sys2Proof/Tests/Slice0.lean ====
section
/-! SUPPORT. Tests: terms that `wellFormed` refuses, a written-out word for every command, one step for each command
from the vectors of 95_test_vectors, and a witness for the hypotheses of each statement. -/

namespace Sys2Proof.Tests

open Sys2Proof Sys2Proof.Machine

/-! ## `wellFormed` refuses -/

theorem test_wf_listen31 : (Instr.listen 31).wellFormed = false := by decide
theorem test_wf_talk31 : (Instr.talk 31).wellFormed = false := by decide
theorem test_wf_reservedLow0 : (Instr.reservedPrimaryLow 0).wellFormed = false := by decide
theorem test_wf_close15 : (Instr.closeCh 15).wellFormed = false := by decide
theorem test_wf_memWrite_long : (Instr.memWrite 0x0500 1 [1, 2]).wellFormed = false := by decide
theorem test_wf_knownSum : (Instr.epyxUnknownSum 0x86).wellFormed = false := by decide

/-! ## A word for every command, from the encodings of 30_encoding R301 to R307 -/

theorem test_word_nullPrimary : decode .pri [0b00000000] = .ok .nullPrimary := by decide
theorem test_word_unlisten : decode .pri [0b00111111] = .ok .unlisten := by decide
theorem test_word_untalk : decode .pri [0b01011111] = .ok .untalk := by decide
theorem test_word_listen : decode .pri [0b00101001] = .ok (.listen 9) := by decide
theorem test_word_talk : decode .pri [0b01001010] = .ok (.talk 10) := by decide
theorem test_word_reservedLow : decode .pri [0b00010001] = .ok (.reservedPrimaryLow 0x11) := by decide
theorem test_word_reserved60 : decode .pri [0b01100010] = .ok (.reservedPrimary60 0x02) := by decide
theorem test_word_reserved80 : decode .pri [0b11100001] = .ok (.reservedPrimary80 0x61) := by decide
theorem test_word_close15 : decode .sec [0b11101111] = .ok .close15Ignored := by decide
theorem test_word_data : decode .sec [0b01101111] = .ok (.dataCh 15) := by decide
theorem test_word_close : decode .sec [0b11101110] = .ok (.closeCh 14) := by decide
theorem test_word_open : decode .sec [0b11110001] = .ok (.openCh 1) := by decide
theorem test_word_sec03 : decode .sec [0b00110101] = .ok (.reservedSecondary03 3 5) := by decide
theorem test_word_sec45 : decode .sec [0b01010101] = .ok (.reservedSecondary45 1 5) := by decide
theorem test_word_sec7 : decode .sec [0b01110101] = .ok (.reservedSecondary7 5) := by decide
theorem test_word_sec8B : decode .sec [0b10100101] = .ok (.reservedSecondary8B 2 5) := by decide
theorem test_word_secCD : decode .sec [0b11010101] = .ok (.reservedSecondaryCD 1 5) := by decide
theorem test_word_xq : decode .cmd15 [0b01011000, 0b01010001] = .ok .xq := by decide
theorem test_word_xz : decode .cmd15 [0b01011000, 0b01011010, 0x0D] = .ok .xz := by decide
theorem test_word_xfPlus : decode .cmd15 [0b01011000, 0b01000110, 0b00101011] = .ok .xfPlus := by decide
theorem test_word_xfMinus : decode .cmd15 [0b01011000, 0b01000110, 0b00101101] = .ok .xfMinus := by decide
theorem test_word_memWrite :
    decode .cmd15 [0x4D, 0x2D, 0x57, 0x03, 0x05, 0x02, 0x02, 0x03, 0x0D] = .ok (.memWrite 0x0503 2 [2, 3]) := by decide
theorem test_word_memExecute : decode .cmd15 [0x4D, 0x2D, 0x45, 0xA9, 0x01] = .ok (.memExecute 0x01A9) := by decide
theorem test_word_loadV1 : decode .epyxSum [0b00100110] = .ok .epyxLoadV1 := by decide
theorem test_word_loadV2 : decode .epyxSum [0b10000110] = .ok .epyxLoadV2 := by decide
theorem test_word_loadV3 : decode .epyxSum [0b10101010] = .ok .epyxLoadV3 := by decide
theorem test_word_sector0B : decode .epyxSum [0b00001011] = .ok .epyxSector0B := by decide
theorem test_word_sectorB8 : decode .epyxSum [0b10111000] = .ok .epyxSectorB8 := by decide
theorem test_word_sectorBA : decode .epyxSum [0b10111010] = .ok .epyxSectorBA := by decide
theorem test_word_unknownSum : decode .epyxSum [0b10000111] = .ok (.epyxUnknownSum 0x87) := by decide
theorem test_word_header : decode .epyxHdr [0b00000100] = .ok (.epyxHdr 4) := by decide
theorem test_word_noCommand : decode .cmd15 [0x58, 0x46, 0x20] = .error .notACommand := by decide
theorem test_word_empty : decode .cmd15 [] = .error .empty := by decide
theorem test_encode_memWrite : encode (.memWrite 0x0503 2 [2, 3]) = [0x4D, 0x2D, 0x57, 0x03, 0x05, 2, 2, 3] := by decide
theorem test_table_xq : decodeTableWord 16 0x5851 = some .xq := by decide
theorem test_table_memExecute : decodeTableWord 40 0x4D2D45A901 = some (.memExecute 0x01A9) := by decide

/-! ## A concrete machine -/

/-- Every feature and pin, with the signature of V2 in 95_test_vectors §2.9. -/
def demoCfg : Cfg where
  featJiffy := true
  featDolphin := true
  featEpyx := true
  sectorOps := true
  hasAtnIrq := true
  hasResetPin := true
  hasCtrlPin := true
  hasParallel := true
  maxDevices := 4
  bufSize := 256
  tDolHtPulse := 10
  tDolBurstAck := 0
  jiffyRxMap := ⟨⟨⟨.clk, true⟩, ⟨.data, true⟩⟩, ⟨⟨.clk, true⟩, ⟨.data, true⟩⟩, ⟨⟨.clk, true⟩, ⟨.data, true⟩⟩, ⟨⟨.clk, true⟩, ⟨.data, true⟩⟩⟩
  jiffyTxMap := ⟨⟨0, false, true, true⟩, ⟨1, false, true, true⟩, ⟨2, false, true, true⟩, ⟨3, false, true, true⟩⟩
  jiffyBlkMap := ⟨⟨0, true, 1, true⟩, ⟨2, true, 3, true⟩, ⟨4, true, 5, true⟩, ⟨6, true, 7, true⟩⟩
  jiffyMore := ⟨.high, .low, 30⟩
  jiffyLast := ⟨.low, .high, 30⟩
  jiffyError := ⟨.high, .high, 30⟩
  epyxSig1 := ⟨⟨0x0180, 32, 0x2E⟩, ⟨0x01A0, 32, 0x2F⟩, 0x0180⟩
  epyxSig2 := ⟨⟨0x0500, 3, 0x10⟩, ⟨0x0503, 2, 0x05⟩, 0x01A9⟩
  epyxSig3 := ⟨⟨0x0600, 32, 0x30⟩, ⟨0x0620, 32, 0x31⟩, 0x0600⟩
  epyxRxOrder := [7, 6, 5, 4, 3, 2, 1, 0]
  epyxTxLineMap := ⟨(.high, .high), (.high, .low), (.low, .high), (.low, .low)⟩
  sector0B := ⟨true, [], .finish⟩
  sectorB8 := ⟨true, [], .finish⟩
  sectorBA := ⟨true, [], .finish⟩

/-- After `begin()`, devices 8 and 9 with every persistent flag. -/
def demo : State :=
  { State.constructed demoCfg 0 [⟨0, 0⟩] { Env.quiet with micros := 5000, attached := true } with
    dev := [⟨true, 8, 0x129, ⟨0, true, true⟩, 0x129⟩, ⟨true, 9, 0x129, ⟨1, true, true⟩, 0x129⟩]
    life := .begun }

/-- Inside a tick, ATN high, at the statements `ps`. -/
def inTickAt (ps : List Pos) : State :=
  { demo with seq := ps ++ [.tick .s5, .yield .between], fl := { demo.fl with inTick := true } }

/-- Inside a tick, ATN low and seen, at the decode point `site`. -/
def underAtn (site : Site) : State :=
  { inTickAt [.decode site] with
    fl := ⟨true, false, true, false, false⟩
    bus := ⟨.underAtn, false⟩
    env := { demo.env with drives := { demo.env.drives with hostAtn := true } } }

/-- Inside a tick at an ATN rise with primary `p` and secondary `sec`; a device is selected or none. -/
def risen (p sec : Byte) (current : Option Nat) : State :=
  { inTickAt [.decode .rise] with addr := ⟨p, sec, true⟩, sel := { demo.sel with current := current } }

/-- Inside a tick at the UNLISTEN of a listen on channel 15 that captured `bytes`. -/
def captured (bytes : List Byte) : State :=
  { inTickAt [.decode (.cmd15 0), .role (.unlisten 0)] with
    sel := { demo.sel with listener := some 0, listenerSec := 0x6F }
    cmd := ⟨listed 0 bytes, bytes.length, false⟩ }

/-- The next state of an answer satisfies `p`. -/
def nextIs (r : Res) (p : State → Bool) : Bool :=
  match r with
  | .next t => p t
  | .fault _ => false
  | .refused _ => false

/-- The head of the sequencer is the device call `c`. -/
def calls (c : DevCall) (t : State) : Bool := t.seq.head? == some (.yield (.call c))

/-! ## One step for each command (95_test_vectors §1.2, §2, §3) -/

theorem test_listen_selects : nextIs (step (underAtn (.primary 0x28))) (fun t =>
    t.addr.primary == 0x28 && t.sel.current == some 0 && calls (.primaryAddress 0 0x28) t) = true := by decide
theorem test_listen_absent : nextIs (step (underAtn (.primary 0x2A))) (fun t =>
    t.addr.primary == 0x2A && t.sel.current == none && t.drv.data == false) = true := by decide
theorem test_talk_selects : nextIs (step (underAtn (.primary 0x49))) (fun t =>
    t.addr.primary == 0x49 && t.sel.current == some 1 && calls (.primaryAddress 1 0x49) t) = true := by decide
theorem test_unlisten_acknowledged : nextIs (step (underAtn (.primary 0x3F))) (fun t =>
    t.addr.primary == 0x3F && t.drv.data) = true := by decide
theorem test_unlisten_no_listener : nextIs (exec .unlisten (risen 0x3F 0 none)) (fun t =>
    t.bus.mode == .idle && !t.drv.clk && !t.drv.data) = true := by decide
theorem test_untalk_acknowledged : nextIs (step (underAtn (.primary 0x5F))) (fun t =>
    t.addr.primary == 0x5F && t.drv.data) = true := by decide
theorem test_nullPrimary : nextIs (step (underAtn (.primary 0x00))) (fun t =>
    t.addr.primary == 0x00 && t.drv.data) = true := by decide
theorem test_reservedLow : nextIs (step (underAtn (.primary 0x01))) (fun t =>
    t.addr.primary == 0x01 && !t.drv.data) = true := by decide
theorem test_reserved60 : nextIs (step (underAtn (.primary 0x60))) (fun t =>
    t.addr.primary == 0x60 && !t.drv.data) = true := by decide
theorem test_reserved80 : nextIs (step (underAtn (.primary 0xE0))) (fun t =>
    t.addr.primary == 0xE0 && !t.drv.data) = true := by decide

/-- The secondary `b` after a LISTEN of device 8 is recorded and passed on. -/
def secondaryTaken (b : Byte) : Bool :=
  nextIs (step { underAtn (.secondary b) with addr := ⟨0x28, 0, false⟩, sel := { demo.sel with current := some 0 } })
    (fun t => t.addr.secondary == b && t.addr.secValid && calls (.secondaryAddress 0 b) t)

theorem test_close15_captured : secondaryTaken 0xEF = true := by decide
theorem test_close15_ignored : nextIs (step (risen 0x28 0xEF (some 0))) (fun t =>
    t.bus.mode == .idle && t.sel.current == none && t.sel.listener == none && !t.drv.data &&
      t.seq == [.tick .s5, .yield .between]) = true := by decide
theorem test_data_listen : nextIs (step (risen 0x28 0x6F (some 0))) (fun t =>
    t.sel.listener == some 0 && t.sel.listenerSec == 0x6F && t.cmd.len == 0 && calls (.listen 0 0x6F) t) = true := by decide
/-- P6: a JiffyDOS talk on 0x61 is a block talk on 0x60. -/
theorem test_data_talk_block :
    nextIs (step { risen 0x48 0x61 (some 0) with dev := [⟨true, 8, 0x003, ⟨0, true, true⟩, 0x001⟩] }) (fun t =>
      t.sel.talkerSec == 0x60 && (entryAt t.dev 0).flags == 0x007 && calls (.talk 0 0x60) t) = true := by decide
theorem test_close_captured : secondaryTaken 0xE1 = true := by decide
theorem test_open_listen : nextIs (step (risen 0x28 0xF0 (some 0))) (fun t =>
    t.sel.listener == some 0 && t.sel.listenerSec == 0xF0 && calls (.listen 0 0xF0) t) = true := by decide
theorem test_sec03_captured : secondaryTaken 0x12 = true := by decide
theorem test_sec45_captured : secondaryTaken 0x52 = true := by decide
theorem test_sec7_captured : secondaryTaken 0x72 = true := by decide
theorem test_sec8B_captured : secondaryTaken 0x92 = true := by decide
theorem test_secCD_captured : secondaryTaken 0xD2 = true := by decide

theorem test_xq : nextIs (step (captured [0x58, 0x51])) (fun t =>
    (entryAt t.dev 0).flags == 0x169 && t.dol.reqTime == 5000) = true := by decide
theorem test_xz : nextIs (step { captured [0x58, 0x5A] with dol := { demo.dol with preN := 2 } }) (fun t =>
    (entryAt t.dev 0).flags == 0x1A9 && t.dol.preN == 0) = true := by decide
theorem test_xfPlus : nextIs (step { captured [0x58, 0x46, 0x2B] with
      dev := [⟨true, 8, 0x109, ⟨0, true, true⟩, 0x109⟩] }) (fun t => (entryAt t.dev 0).flags == 0x129) = true := by decide
theorem test_xfMinus : nextIs (step (captured [0x58, 0x46, 0x2D])) (fun t =>
    (entryAt t.dev 0).flags == 0x109 && (entryAt t.dev 1).flags == 0x129) = true := by decide
/-- P4, step 1. -/
theorem test_memWrite_first : nextIs (step (captured [0x4D, 0x2D, 0x57, 0x00, 0x05, 0x03, 0x01, 0x02, 0x0D])) (fun t =>
    t.epyx.ctr == 1 && t.epyx.ver == some .v2 && t.epyx.dev == 0) = true := by decide
/-- P4, step 2. -/
theorem test_memWrite_second : nextIs (step { captured [0x4D, 0x2D, 0x57, 0x03, 0x05, 0x02, 0x02, 0x03] with
      epyx := ⟨1, some .v2, 0, 0⟩ }) (fun t => t.epyx.ctr == 2) = true := by decide
/-- P4, step 3. -/
theorem test_memExecute : nextIs (step { captured [0x4D, 0x2D, 0x45, 0xA9, 0x01] with epyx := ⟨2, some .v2, 0, 0⟩ })
    (fun t => (entryAt t.dev 0).flags == 0x329 && t.epyx.ctr == 0 && t.epyx.ver == none) = true := by decide

/-- The sum of a load routine starts the receive of the length byte. -/
def loadStarts (sum : Byte) : Bool :=
  nextIs (step (inTickAt [.decode (.sum 0 sum)])) (fun t =>
    t.fl.irqMasked && t.seq.take 3 == [.yield (.waitFor .clk .low 0 5000 true), .epyx (.rxBit 0 0 .low), .epyx (.nameLen 0)])

/-- The sum of a sector routine is kept and starts the sector operations. -/
def sectorStarts (sum : Byte) : Bool :=
  nextIs (step (inTickAt [.decode (.sum 0 sum)])) (fun t => t.epyx.sum == sum && (entryAt t.dev 0).flags == 0x929)

theorem test_loadV1 : loadStarts 0x26 = true := by decide
theorem test_loadV2 : loadStarts 0x86 = true := by decide
theorem test_loadV3 : loadStarts 0xAA = true := by decide
theorem test_sector0B : sectorStarts 0x0B = true := by decide
theorem test_sectorB8 : sectorStarts 0xB8 = true := by decide
theorem test_sectorBA : sectorStarts 0xBA = true := by decide
theorem test_unknownSum : nextIs (step { inTickAt [.decode (.sum 0 0x00)] with
      drv := { demo.drv with clk := true } }) (fun t =>
    !t.drv.clk && !t.drv.data && t.seq == [.tick .s7, .yield .between]) = true := by decide
theorem test_header : nextIs (step { inTickAt [.decode (.header 0 4)] with dol := { demo.dol with capN := 1 } }) (fun t =>
    t.dol.capN == 0 && t.fl.irqMasked && t.seq.drop 2 == [.epyx (.nameByte 0 4 0), .tick .s5, .yield .between]) = true := by
  decide

/-! ## Other vectors -/

/-- §2.9: the levels L, L, H, H, H, H, H, H under the order 7 to 0 give 0xC0; here the last of them. -/
theorem test_epyx_receive : nextIs (step { inTickAt [.epyx (.rxBit 7 0xC0 .high)] with
      fl := { demo.fl with irqMasked := true } }) (fun t => t.work.byte == 0xC0 && !t.fl.irqMasked) = true := by decide
/-- I5 with a command: the ATN fall of the next frame clears the burst request. -/
theorem test_fall_drops_transient :
    (entryAt (atnFall { demo with dev := [⟨true, 8, 0x068, ⟨0, true, true⟩, 0x028⟩] }).dev 0).flags = 0x028 := by decide
theorem test_wrap_elapsed : elapsed { demo with env := { demo.env with micros := 0x00000005 } } 0xFFFFFFFB = 10 := by
  decide
/-- The registry at program start is empty, and construction binds the engine's slot (10_state R160). -/
theorem test_construct_binds_slot : (State.programStart demoCfg).registry = [] ∧
    nextIs (hostCall (.construct demoCfg 7) (State.programStart demoCfg)) (fun t =>
      t.registry == [⟨0, 7⟩] && t.engine == 0 && t.life == .constructed) = true := by decide
/-- 42_jiffydos R606 with the slots in the other order: `JIFFY_TX_MAP` says which pair a slot carries (R210). -/
theorem test_jiffy_tx_pair : jiffyTxLevels { demoCfg with jiffyTxMap :=
    ⟨⟨3, false, false, false⟩, ⟨2, false, false, false⟩, ⟨1, false, false, false⟩, ⟨0, false, false, false⟩⟩ } 0 0x04 =
      (.high, .low) := by decide
/-- P4 step 4 of 95_test_vectors: in `IDLE`, with DATA high, S4 clears `EpyxHeader` and drives CLK low. -/
theorem test_header_starts : nextIs (step { inTickAt [.tick .s4] with
      dev := [⟨true, 8, 0x300, ⟨0, true, true⟩, 0x100⟩] }) (fun t =>
    (entryAt t.dev 0).flags == 0x100 && t.drv.clk) = true := by decide
/-- A hold of 80 µs ends at 81 at the latest: the clock does not pass it (40_timing R410, R412). -/
theorem test_clock_stops_at_band : nextIs (step { inTickAt [.yield (.waitUs 80 5000 true)] with
      env := { demo.env with feed := [.clock 500] } }) (fun t => t.env.micros == 5081) = true := by decide
theorem test_reset_step_waits : nextIs (step { State.reset with
      env := { State.reset.env with feed := [.host .tick] } }) (fun t => t.seq == [.tick .s1, .yield .between]) = true := by
  decide

/-! ## The hypotheses of each statement can be met

For each statement of Obligations with hypotheses, concrete states and operands that meet them, for each clause. -/

/-- `inTickAt` with the move `m` listed first. -/
def fed (ps : List Pos) (m : Move) : State :=
  { inTickAt ps with env := { demo.env with feed := [m] } }

theorem witness_EncodedCommandsDecodeToThemselves : (Instr.listen 30).wellFormed = true ∧
    (Instr.closeCh 14).wellFormed = true ∧ (Instr.memWrite 0xFFFF 2 [1, 2]).wellFormed = true := by decide

theorem witness_DecodedCommandsStartTheirBytes : decode .sec [0xFF, 0x00] = .ok (.openCh 15) ∧
    decode .cmd15 [0x4D, 0x2D, 0x57, 0, 0, 0xFF, 1] = .ok (.memWrite 0 0xFF [1]) := by decide

theorem witness_StepRuns_bytes :
    (underAtn (.primary 0x3E)).seq = .decode (.primary 0x3E) :: [.tick .s5, .yield .between] ∧
    decode .pri [0x3E] = .ok (.listen 30) ∧
    (underAtn (.secondary 0x6F)).seq = .decode (.secondary 0x6F) :: [.tick .s5, .yield .between] ∧
    decode .sec [0x6F] = .ok (.dataCh 15) := by decide

theorem witness_StepRuns_rise :
    (risen 0x28 0xF0 (some 0)).seq = .decode .rise :: [.tick .s5, .yield .between] ∧
    (risen 0x28 0xF0 (some 0)).addr.secValid = true ∧ decode .sec [0xF0] = .ok (.openCh 0) ∧
    { risen 0x28 0xF0 (some 0) with addr := ⟨0x28, 0, false⟩ }.addr.secValid = false ∧
    decode .pri [0x28] = .ok (.listen 8) := by decide

theorem witness_StepRuns_others :
    (captured [0x58, 0x51]).seq = .decode (.cmd15 0) :: [.role (.unlisten 0), .tick .s5, .yield .between] ∧
    (captured [0x58, 0x51]).cmd.overflow = false ∧ cmdBytes (captured [0x58, 0x51]) = .ok [0x58, 0x51] ∧
    (inTickAt [.decode (.sum 0 0x86)]).seq = .decode (.sum 0 0x86) :: [.tick .s5, .yield .between] ∧
    (inTickAt [.decode (.header 0 4)]).seq = .decode (.header 0 4) :: [.tick .s5, .yield .between] := by decide

theorem witness_OtherStrings_overflow :
    { captured [0x58] with cmd := ⟨[], 0, true⟩ }.cmd.overflow = true ∧
    { captured [0x58] with cmd := ⟨[], 0, true⟩ }.seq =
      .decode (.cmd15 0) :: [.role (.unlisten 0), .tick .s5, .yield .between] := by decide

theorem witness_OtherStrings_unknown : cmdBytes (captured [0x49]) = .ok [0x49] ∧ ∀ i, decode .cmd15 [0x49] ≠ .ok i :=
  ⟨by decide, fun _ h => nomatch h⟩

theorem witness_EveryStepKeepsTheInvariant :
    Inv (inTickAt [.tick .s8]) ∧ nextIs (step (inTickAt [.tick .s8])) (fun _ => true) = true := by
  unfold Machine.Inv tableOk buffersOk wiringOk countersOk
  decide

theorem witness_TableIsFixedAfterBegin :
    Ready (inTickAt [.tick .s1]) ∧ nextIs (step (inTickAt [.tick .s1])) (fun _ => true) = true := by
  unfold Ready
  decide

theorem witness_EngineStatementsLeaveTheOutsideAlone :
    ¬ AtYield (inTickAt [.tick .s1]) ∧ nextIs (step (inTickAt [.tick .s1])) (fun _ => true) = true := by
  refine ⟨?_, by decide⟩
  simp [AtYield, inTickAt]

theorem witness_BufferBytesReadBackAsWritten : 255 < demo.cfg.bufSize ∧ demo.cfg.bufSize ≤ 256 := by decide

theorem witness_LineLevels : demo.cfg.hasParallel = true := by decide

theorem witness_Thresholds_elapsed :
    { demo with env := { demo.env with micros := 5 } }.env.micros = 0xFFFFFFFB + BitVec.ofNat 32 10 := by decide

/-- 200 µs with `T_TOL` = 1: over after 201, not over after 198, and open from 199 to 200. 16.5 µs: over after 18, not over
after 15, and open at 16. -/
theorem witness_Thresholds_band : 400 + 2 * demoCfg.tTol ≤ 2 * 201 ∧ 2 * (198 + demoCfg.tTol) < 400 ∧
    400 ≤ 2 * (199 + demoCfg.tTol) ∧ 2 * 199 + 400 % 2 < 400 + 2 * demoCfg.tTol ∧
    400 ≤ 2 * (200 + demoCfg.tTol) ∧ 2 * 200 + 400 % 2 < 400 + 2 * demoCfg.tTol ∧
    33 + 2 * demoCfg.tTol ≤ 2 * 18 ∧ 2 * (14 + demoCfg.tTol) < 33 ∧
    33 ≤ 2 * (16 + demoCfg.tTol) ∧ 2 * 16 + 33 % 2 < 33 + 2 * demoCfg.tTol := by decide

theorem witness_Thresholds_clock :
    (fed [.yield (.waitUs 80 5000 true)] (.clock 500)).env.feed = .clock 500 :: [] ∧
    81 = (if demo.cfg.tTol = 0 then (2 * 80 + 1) / 2 else 2 * 80 / 2 + demo.cfg.tTol) ∧ 81 < 2 ^ 32 ∧
    elapsed demo 5000 ≤ 81 ∧ elapsed demo 4919 ≤ 81 ∧
    17 = (if demo.cfg.tTol = 0 then (33 + 1) / 2 else 33 / 2 + demo.cfg.tTol) ∧ elapsed demo 4983 ≤ 17 ∧
    (fed [.yield (.waitUntil 33 5000)] (.clock 500)).seq = .yield (.waitUntil 33 5000) :: [.tick .s5, .yield .between] ∧
    (fed [.yield (.waitHr .low 80 5000 .high true)] (.clock 500)).seq =
      .yield (.waitHr .low 80 5000 .high true) :: [.tick .s5, .yield .between] ∧
    (fed [.yield (.waitUs 80 5000 true)] (.clock 500)).seq = .yield (.waitUs 80 5000 true) :: [.tick .s5, .yield .between] ∧
    (fed [.yield (.waitUntil (2 * 80) 5000)] (.clock 81)).seq =
      .yield (.waitUntil (2 * 80) 5000) :: [.tick .s5, .yield .between] ∧
    (fed [.yield (.waitFor .clk .low 200 5000 true)] (.clock 201)).seq =
      .yield (.waitFor .clk .low 200 5000 true) :: [.tick .s5, .yield .between] := by decide

theorem witness_WaitTests :
    (fed [.yield (.waitFor .clk .low 200 4800 true)] (.engine {})).env.feed = [.engine {}] ∧
    (fed [.yield (.waitFor .clk .low 200 4800 true)] (.engine {})).seq =
      .yield (.waitFor .clk .low 200 4800 true) :: [.tick .s5, .yield .between] ∧
    (fed [.yield (.waitFor .clk .low 200 4800 false)] (.engine {})).seq =
      .yield (.waitFor .clk .low 200 4800 false) :: [.tick .s5, .yield .between] := by decide

theorem witness_FailureReturnsToTheTick :
    (inTickAt [.rx (.bit 7 0 false)]).seq = [.rx (.bit 7 0 false)] ++ [] ++ .tick .s5 :: [.yield .between] ∧
    (∀ f ∈ ([.rx (.bit 7 0 false)] : List Pos), f.catches = false) ∧ (inTickAt []).fl.inTick = true ∧
    { inTickAt [] with seq := [.tick .s8] }.seq = [] ++ [] ++ .tick .s8 :: [] ∧
    { inTickAt [] with seq := [.tick .posted] }.seq = [] ++ [] ++ .tick .posted :: [] := by decide

/-- The host does not answer a burst byte in time. -/
theorem witness_FailureReturnsToTheTick_burst :
    { inTickAt [] with seq := [.dol .sendTaken, .dol (.burstHeld 0 1), .dol .releaseClk, .dol .returned, .tick .s4] }.seq =
      [.dol .sendTaken, .dol (.burstHeld 0 1)] ++ [.dol .releaseClk, .dol .returned] ++ .tick .s4 :: [] ∧
    (∀ f ∈ ([.dol .sendTaken, .dol (.burstHeld 0 1)] : List Pos), f.catches = false) ∧
    ([.dol .releaseClk, .dol .returned] : List Pos) = .dol .releaseClk :: [.dol .returned] ∧
    (∀ f ∈ ([.dol .returned] : List Pos), f.catches = false) := by decide

theorem witness_FailedEpyxBlockClosesTheFile :
    (inTickAt [.epyx .txTaken, .epyx (.guarded 0)]).seq =
      [.epyx .txTaken] ++ .epyx (.guarded 0) :: [.tick .s5, .yield .between] ∧
    (∀ f ∈ ([.epyx .txTaken] : List Pos), f.catches = false) := by decide

/-- Masked. -/
def masked (s : State) : State := { s with fl := { s.fl with irqMasked := true } }

theorem witness_ModelFaultsStopTheMachine :
    (masked demo).fl.irqMasked = true ∧
    (fed [.yield (.call (.readInto 0 1))] (.engine { bytes := [1, 2] })).seq =
      .yield (.call (.readInto 0 1)) :: [.tick .s5, .yield .between] ∧
    (fed [.yield (.call (.readInto 0 1))] (.engine { bytes := [1, 2] })).env.feed = [.engine { bytes := [1, 2] }] ∧
    1 < ([1, 2] : List Byte).length ∧
    (masked (inTickAt [.tick .finish])).seq = .tick .finish :: [.tick .s5, .yield .between] ∧
    (masked (inTickAt [.tick .posted])).seq = .tick .posted :: [.tick .s5, .yield .between] ∧
    { inTickAt [.dol .returned] with drv := { demo.drv with parOutMode := true } }.seq =
      .dol .returned :: [.tick .s5, .yield .between] ∧
    { inTickAt [.dol .returned] with drv := { demo.drv with parOutMode := true } }.drv.parOutMode = true := by decide

/-- ATN low. -/
def atnLow (s : State) : State := { s with env := { s.env with drives := { s.env.drives with hostAtn := true } } }

/-- ATN low and seen. -/
def atnSeen (s : State) : State := { atnLow s with fl := { s.fl with atnActive := true } }

theorem witness_AtnFall : (atnLow (inTickAt [.tick .s2])).seq = .tick .s2 :: [.tick .s5, .yield .between] ∧
    (atnLow (inTickAt [.tick .s7])).seq = .tick .s7 :: [.tick .s5, .yield .between] ∧
    readLine (atnLow (inTickAt [.tick .s2])) .atn = .low ∧ (atnLow (inTickAt [.tick .s2])).fl.atnActive = false ∧
    readLine (inTickAt [.tick .s2]) .atn = .high ∧ { demo.fl with atnActive := true }.atnActive = true ∧
    (readLine (atnSeen demo) .atn = .low ↔ (atnSeen demo).fl.atnActive = true) := by decide

/-- Between ticks, with an ATN edge of pin 0 to deliver. -/
def edged : State := { demo with env := { demo.env with feed := [.interrupt 0], edge := true } }

/-- Between ticks, with a fall of ATN to come. -/
def falling : State := { demo with env := { demo.env with feed := [.drive { hostAtn := true }] } }

theorem witness_Interrupt_fall : falling.seq = .yield .between :: [] ∧
    falling.env.feed = .drive { hostAtn := true } :: [] ∧ falling.env.attached = true ∧
    ({ hostAtn := true } : Drives).hostAtn = true ∧ falling.env.drives.hostAtn = false ∧
    (masked falling).fl.irqMasked = true ∧ falling.fl.irqMasked = false ∧
    { falling.fl with irqPending := true }.irqPending = true ∧ falling.fl.inTick = false ∧
    readLine (atnLow falling) .atn = .low ∧ falling.fl.atnActive = false ∧ falling.fl.irqPending = false := by decide

theorem witness_Interrupt : edged.seq = .yield .between :: [] ∧ edged.env.feed = [.interrupt 0] ∧
    (⟨edged.engine, 0⟩ : RegistrySlot) ∈ edged.registry ∧ (⟨edged.engine, 1⟩ : RegistrySlot) ∉ edged.registry ∧
    edged.env.attached = true ∧ edged.env.edge = true ∧ (masked edged).fl.irqMasked = true ∧
    edged.fl.irqMasked = false ∧ edged.fl.inTick = false ∧ readLine edged .atn = .high ∧
    readLine (atnLow edged) .atn = .low ∧ (atnLow edged).fl.atnActive = false ∧
    { edged with fl := { edged.fl with inTick := true } }.fl.inTick = true := by decide

theorem witness_ResetEdge :
    readLine { inTickAt [.tick .s1] with
      env := { demo.env with drives := { demo.env.drives with reset := true } } } .reset = .low ∧
    (inTickAt [.tick .s1]).seq = .tick .s1 :: [.tick .s5, .yield .between] ∧ demo.cfg.hasResetPin = true ∧
    demo.fl.resetSeenPrev = false ∧ { demo.fl with resetSeenPrev := true }.resetSeenPrev = true := by decide

theorem witness_Find : find demo 8 = some 0 ∧ find demo 9 = some 1 ∧ find demo 31 = none ∧ tableOk demo := by
  unfold tableOk
  decide

/-- `address()` answered `a`. -/
def answered (a : BitVec 5) : State :=
  { inTickAt [.boot (.added ⟨2, true, false⟩ 0x129)] with work := { demo.work with answer := { addr := a } } }

theorem witness_AddDevice :
    (answered 10).seq = .boot (.added ⟨2, true, false⟩ 0x129) :: [.tick .s5, .yield .between] ∧
    (∀ e ∈ (answered 10).dev, e.valid = true) ∧ (answered 31).work.answer.addr = 31 ∧
    (∃ e ∈ (answered 8).dev, e.address = 8) ∧
    { answered 10 with cfg := { demoCfg with maxDevices := 2 } }.cfg.maxDevices ≤ demo.dev.length ∧
    (∀ e ∈ (answered 30).dev, e.address ≠ 30) ∧ (answered 30).dev.length < (answered 30).cfg.maxDevices := by decide

theorem witness_HostCalls :
    demo.life = .begun ∧ { demo with life := .constructed }.life ≠ .begun ∧
    (inTickAt [.yield (.call (.task 0))]).seq = .yield (.call (.task 0)) :: [.tick .s5, .yield .between] ∧
    { demo with registry := [⟨0, 0⟩, ⟨1, 1⟩] }.cfg.maxEngines ≤ 2 ∧ demo.life ≠ .unbuilt ∧
    { demo with life := .unbuilt, registry := [] }.registry.length < demoCfg.maxEngines ∧
    ({ demoCfg with bufSize := 31 }.featEpyx = true ∧ { demoCfg with bufSize := 31 }.bufSize < 32) ∧
    ({ demoCfg with bufSize := 1 }.featDolphin = true ∧ { demoCfg with bufSize := 1 }.bufSize < 2) ∧
    ({ demoCfg with bufSize := 255 }.sectorOps = true ∧ { demoCfg with bufSize := 255 }.bufSize < 256) := by decide

theorem witness_Primaries : (underAtn (.primary 0x28)).fl.atnActive = true ∧
    (underAtn (.primary 0x28)).addr.primary = 0x00 ∧ find (underAtn (.primary 0x28)) 8 = some 0 ∧
    find (underAtn (.primary 0x28)) 30 = none ∧ decode .pri [0x1F] = .ok (.reservedPrimaryLow 0x1F) ∧
    decode .pri [0x60] = .ok (.reservedPrimary60 0x00) ∧ decode .pri [0xFF] = .ok (.reservedPrimary80 0x7F) ∧
    (0x01 : Byte) ≤ 0x1F ∧ (0x1F : Byte) ≤ 0x1F ∧ (0x60 : Byte) ≤ 0x60 ∧ (0x60 : Byte) ≤ 0xFF ∧ (0x28 : Byte) ≠ 0x00 ∧
    decode .pri [0x28] = .ok (.listen 8) ∧ (risen 0x60 0 none).fl.atnActive = false := by decide

/-- Under ATN at the byte after the primary `p`, with the device `k` selected. -/
def afterPrimary (p b : Byte) (k : Option Nat) : State :=
  { underAtn (.secondary b) with addr := ⟨p, 0, false⟩, sel := { demo.sel with current := k } }

theorem witness_Secondaries : (afterPrimary 0x28 0xF0 (some 0)).fl.atnActive = true ∧
    (afterPrimary 0x28 0xF0 (some 0)).addr.primary ≠ 0x00 ∧ (afterPrimary 0x28 0xF0 (some 0)).addr.secValid = false ∧
    (afterPrimary 0x28 0xF0 (some 0)).sel.current = some 0 ∧ decode .sec [0xF0] = .ok (.openCh 0) ∧
    (afterPrimary 0x3F 0x60 none).sel.current = none ∧ (afterPrimary 0x3F 0x60 none).addr.primary = 0x3F ∧
    (afterPrimary 0x29 0x60 none).addr.primary ≠ 0x3F ∧ (afterPrimary 0x29 0x60 none).addr.primary ≠ 0x5F := by decide

/-- Under ATN at the acknowledge of a new secondary `b`. -/
def newSecondary (b : Byte) : State :=
  { afterPrimary 0x28 b (some 0) with addr := ⟨0x28, b, true⟩, seq := [.rx (.ack b false true), .tick .s6] }

theorem witness_NewSecondary : (newSecondary 0x60).addr.secondary = 0x60 ∧ (newSecondary 0x60).fl.atnActive = true ∧
    (newSecondary 0x60).sel.current = some 0 ∧ dolphinOn (newSecondary 0x60) 0 = true ∧
    dolphinOn { newSecondary 0x60 with dev := [⟨true, 8, 0x101, ⟨0, true, true⟩, 0x101⟩] } 0 = false := by decide

theorem witness_Listen : decode .sec [0x6F] = .ok (.dataCh 15) ∧ (0x6F : Byte) ≠ 0xEF ∧
    decode .pri [(risen 0x28 0x6F (some 0)).addr.primary] = .ok (.listen 8) ∧
    (risen 0x28 0x6F (some 0)).fl.atnActive = false ∧ (risen 0x28 0x6F (some 0)).sel.current = some 0 ∧
    (risen 0x28 0x6F (some 0)).dol.preN = 0 ∧ (risen 0x28 0x6F (some 0)).sel.listener = none ∧
    { risen 0x28 0 (some 0) with addr := ⟨0x28, 0, false⟩ }.addr.secValid = false ∧
    { demo.sel with listener := some 1 }.listener = some 1 ∧
    { demo.dol with preN := 2 }.preN ≠ 0 ∧ 0 = { demo.dol with preN := 2 }.preDev ∧
    ¬ (0 = { demo.dol with preN := 2, preDev := 1 }.preDev ∧ ((0x61 : Byte) = 0x61 ∨ (0x61 : Byte) = 0x6F)) ∧
    (inTickAt [.role .listenDone]).seq = .role .listenDone :: [.tick .s5, .yield .between] ∧
    (inTickAt [.role (.listenFlushed 0 0x6F)]).seq = .role (.listenFlushed 0 0x6F) :: [.tick .s5, .yield .between] ∧
    (inTickAt [.role (.listenFree 0 0x6F)]).seq = .role (.listenFree 0 0x6F) :: [.tick .s5, .yield .between] := by decide

theorem witness_Talk : decode .sec [0x61] = .ok (.dataCh 1) ∧
    decode .pri [(risen 0x48 0x61 (some 0)).addr.primary] = .ok (.talk 8) ∧
    (risen 0x48 0x61 (some 0)).sel.talker = none ∧ (risen 0x48 0x61 (some 0)).dol.preN = 0 ∧
    { risen 0x48 0x61 (some 0) with dev := [⟨true, 8, 0x003, ⟨0, true, true⟩, 0x001⟩] }.flag 0 .jiffyDetected = true ∧
    (risen 0x48 0x61 (some 0)).flag 0 .jiffyDetected = false ∧ { demo.dol with preN := 2 }.preN ≠ 0 ∧
    { risen 0x48 0 (some 0) with addr := ⟨0x48, 0, false⟩ }.addr.secValid = false ∧
    { demo.sel with talker := some 1 }.talker = some 1 ∧
    (inTickAt [.role (.talkFlushed 0 0x61)]).seq = .role (.talkFlushed 0 0x61) :: [.tick .s5, .yield .between] ∧
    (inTickAt [.role (.talkFree 0 0x61)]).seq = .role (.talkFree 0 0x61) :: [.tick .s5, .yield .between] ∧
    (inTickAt [.role .talkCalled]).seq = .role .talkCalled :: [.tick .s5, .yield .between] ∧
    (inTickAt [.role .reverse]).seq = .role .reverse :: [.tick .s5, .yield .between] := by decide

theorem witness_ModeAndSelectionChangeOnlyByTheirRules :
    Ready (underAtn (.primary 0x28)) ∧
    nextIs (step (underAtn (.primary 0x28))) (fun t => t.addr.primary == 0x28 && t.sel.current == some 0) = true ∧
    Ready (risen 0x28 0xEF (some 0)) ∧
    nextIs (step (risen 0x28 0xEF (some 0))) (fun t => t.bus.mode == .idle) = true ∧
    Ready (inTickAt [.role .listenDone]) ∧
    nextIs (step (inTickAt [.role .listenDone])) (fun t => t.bus.mode == .listening) = true ∧
    Ready (inTickAt [.role .talkCalled]) ∧
    nextIs (step (inTickAt [.role .talkCalled])) (fun t => t.bus.mode == .talking) = true ∧
    Ready (atnLow (inTickAt [.tick .s2])) ∧
    nextIs (step (atnLow (inTickAt [.tick .s2]))) (fun t => t.bus.mode == .underAtn) = true := by
  unfold Ready
  decide

/-- At the rise of an UNLISTEN of device 8, listening on `sec`. -/
def unlistening (sec : Byte) (len : Nat) : State :=
  { risen 0x3F 0 none with sel := { demo.sel with listener := some 0, listenerSec := sec }, cmd := ⟨[], len, false⟩ }

theorem witness_Unlisten : (unlistening 0x6F 1).fl.atnActive = false ∧ (unlistening 0x6F 1).sel.listener = some 0 ∧
    (unlistening 0x6F 1).sel.listenerSec = 0x6F ∧ 0 < (unlistening 0x6F 1).cmd.len ∧
    (unlistening 0x6F 0).cmd.len = 0 ∧ (unlistening 0x60 1).sel.listenerSec ≠ 0x6F ∧
    (risen 0x3F 0 none).sel.listener = none ∧ (risen 0x5F 0 none).sel.talker = none ∧
    (risen 0x3F 0xEF none).addr.primary = 0x3F ∧ decode .sec [0xEF] = .ok .close15Ignored ∧
    (risen 0x3F 0xEF none).sel.current = none ∧ (risen 0x5F 0x60 none).addr.primary = 0x5F ∧
    decode .sec [0x60] = .ok (.dataCh 0) ∧ (0x60 : Byte) ≠ 0xEF ∧
    { demo.sel with talker := some 0 }.talker = some 0 ∧
    (inTickAt [.role (.unlisten 0)]).seq = .role (.unlisten 0) :: [.tick .s5, .yield .between] ∧
    (inTickAt [.role .unlistenDone]).seq = .role .unlistenDone :: [.tick .s5, .yield .between] ∧
    (inTickAt [.role .untalkDone]).seq = .role .untalkDone :: [.tick .s5, .yield .between] := by decide

theorem witness_NotForUs : (risen 0x29 0x60 none).fl.atnActive = false ∧ (risen 0x29 0x60 none).sel.current = none ∧
    (risen 0x28 0xEF (some 0)).sel.current = some 0 ∧ decode .sec [0xEF] = .ok .close15Ignored ∧
    decode .pri [(risen 0x29 0x60 none).addr.primary] = .ok (.listen 9) ∧
    decode .pri [(risen 0x49 0xEF none).addr.primary] = .ok (.talk 9) ∧
    (risen 0x1F 0x60 none).addr.primary ≤ 0x1F ∧ 0x60 ≤ (risen 0x60 0x60 none).addr.primary := by decide

theorem witness_AddressingLeavesTheRestAlone : formatOf (.listen 8) = .pri ∧ formatOf (.openCh 0) = .sec ∧
    nextIs (exec (.listen 8) (underAtn (.primary 0x28))) (fun _ => true) = true ∧
    nextIs (exec (.openCh 0) (risen 0x28 0xF0 (some 0))) (fun _ => true) = true := by decide

/-- At a channel-15 command of device 8, with the flags `f` and the Epyx state `e`. -/
def commanded (f : BitVec 12) (e : EpyxRegs) : State :=
  { captured [0x58] with dev := [⟨true, 8, f, ⟨0, true, true⟩, f⟩], epyx := e }

theorem witness_BurstRequests :
    (commanded 0x028 demo.epyx).seq = .decode (.cmd15 0) :: [.role (.unlisten 0), .tick .s5, .yield .between] ∧
    (commanded 0x028 demo.epyx).cfg.featEpyx = true ∧ { demoCfg with featEpyx := false }.featEpyx = false ∧ dolphinOn (commanded 0x028 demo.epyx) 0 = true ∧
    (commanded 0x028 demo.epyx).flag 0 .dolphinBurstEnabled = true ∧
    (commanded 0x008 demo.epyx).flag 0 .dolphinBurstEnabled = false ∧ 0 < (commanded 0x028 demo.epyx).dev.length := by
  decide

theorem witness_MemoryWrites :
    (commanded 0x100 ⟨1, some .v2, 0, 0⟩).flag 0 .epyxEnabled = true ∧ (3 : Byte).toNat ≤ [1, 2, 13].length ∧
    (signature demoCfg .v2).second = ⟨0x0503, 2, sumBytes [2, 3]⟩ ∧
    versionStarting demoCfg ⟨0x0500, 3, sumBytes [1, 2, 13]⟩ = some .v2 ∧
    versionStarting demoCfg ⟨0x0501, 3, sumBytes [1, 2, 13]⟩ = none ∧
    (commanded 0x000 demo.epyx).flag 0 .epyxEnabled = false ∧ ([1, 2] : List Byte).length < (3 : Byte).toNat := by decide

theorem witness_MemoryExecute :
    (commanded 0x100 ⟨2, some .v2, 0, 0⟩).flag 0 .epyxEnabled = true ∧
    (0x01A9 : BitVec 16) = (signature demoCfg .v2).exec ∧ (commanded 0x100 ⟨1, some .v2, 0, 0⟩).epyx.ctr ≠ 2 ∧
    (commanded 0x100 ⟨2, some .v2, 1, 0⟩).epyx.dev ≠ 0 ∧ (0x01AA : BitVec 16) ≠ (signature demoCfg .v2).exec := by decide

/-- In step S4 with a header upload pending. -/
def headed : State := { inTickAt [.tick .s4] with dev := [⟨true, 8, 0x300, ⟨0, true, true⟩, 0x100⟩] }

theorem witness_MemoryExecute_header : headed.seq = .tick .s4 :: [.tick .s5, .yield .between] ∧
    headed.cfg.featEpyx = true ∧ headed.bus.mode = .idle ∧
    leastWith headed [.epyxHeader, .epyxLoad, .epyxSectorOp] = some 0 ∧ headed.flag 0 .epyxHeader = true ∧
    readLine headed .data = .high ∧
    readLine { headed with env := { demo.env with drives := { demo.env.drives with hostData := true } } } .data =
      .low := by decide

theorem witness_ChannelCommandsLeaveTheRestAlone : formatOf .xz = .cmd15 ∧
    nextIs (exec .xz (commanded 0x028 demo.epyx)) (fun _ => true) = true := by decide

theorem witness_Sums :
    (inTickAt [.decode (.sum 0 0x26)]).seq = .decode (.sum 0 0x26) :: [.tick .s5, .yield .between] ∧
    (inTickAt [.decode (.sum 0 0x26)]).fl.irqMasked = false ∧ demo.cfg.sectorOps = true ∧
    demo.drv.parOutMode = false ∧ { demoCfg with sectorOps := false }.sectorOps = false ∧
    nextIs (exec .epyxLoadV1 (inTickAt [.decode (.sum 0 0x26)])) (fun _ => true) = true := by decide

theorem witness_Header :
    (inTickAt [.decode (.header 0 0)]).seq = .decode (.header 0 0) :: [.tick .s5, .yield .between] ∧
    (inTickAt [.decode (.header 0 0)]).dol.preN = 0 ∧ (1 : Byte) ≠ 0 ∧ formatOf (.epyxHdr 1) = .epyxHdr ∧
    { demo.dol with preN := 1 }.preN ≠ 0 ∧
    (inTickAt [.epyx (.nameClaimed 0 4)]).seq = .epyx (.nameClaimed 0 4) :: [.tick .s5, .yield .between] := by decide

/-- At the last byte of a name of 2, whose byte at index 1 is stored. -/
def naming : State := { inTickAt [.epyx (.nameByte 0 2 1)] with buf := [(1, 0x42)], work := { demo.work with byte := 0x41 } }

theorem witness_Filename : (inTickAt [.epyx (.nameByte 0 255 253)]).seq =
      .epyx (.nameByte 0 255 253) :: [.tick .s5, .yield .between] ∧
    253 + 1 < (255 : Byte).toNat ∧ (255 : Byte).toNat ≤ demo.cfg.bufSize ∧ demo.fl.irqMasked = false ∧
    { demoCfg with bufSize := 32 }.bufSize < (33 : Byte).toNat ∧ 32 < (33 : Byte).toNat ∧ 32 + 1 = (33 : Byte).toNat ∧
    naming.seq = .epyx (.nameByte 0 2 1) :: [.tick .s5, .yield .between] ∧ 1 + 1 = (2 : Byte).toNat ∧
    (([0x41] : List Byte) ++ [0x42]).length = (2 : Byte).toNat ∧
    (∀ a < (2 : Byte).toNat, (([0x41] : List Byte) ++ [0x42])[a]? =
      if a = 0 then some naming.work.byte else memGet naming.buf a) ∧
    (inTickAt [.epyx (.opened 0)]).seq = .epyx (.opened 0) :: [.tick .s5, .yield .between] := by decide

theorem witness_EpyxSamples : (inTickAt [.epyx (.rxBit 7 0xC0 .high)]).seq =
      .epyx (.rxBit 7 0xC0 .high) :: [.tick .s5, .yield .between] ∧
    demo.fl.irqPending = false ∧ epyxRxPlace demoCfg 7 < 8 ∧ (0xC0 : Byte).getLsbD (epyxRxPlace demoCfg 7) = false ∧
    epyxRxPlace demoCfg 0 < 8 ∧ (0x00 : Byte).getLsbD (epyxRxPlace demoCfg 0) = false := by decide

theorem witness_Heartbeat : (inTickAt [.epyx (.beat 0 30000)]).seq = .epyx (.beat 0 30000) :: .tick .s5 :: [.yield .between] ∧
    demo.cfg.heartbeatMax ≤ 30000 ∧ 29999 < demo.cfg.heartbeatMax ∧ readLine demo .data = .high ∧
    readLine { demo with env := { demo.env with drives := { demo.env.drives with hostData := true } } } .data = .low ∧
    demo.fl.irqMasked = false ∧ demo.drv.parOutMode = false ∧
    (inTickAt [.epyx (.beatLow 0 0)]).seq = .epyx (.beatLow 0 0) :: [.tick .s5, .yield .between] := by decide

theorem witness_Eoi : (inTickAt [.rx .eoiTest]).seq = .rx .eoiTest :: [.tick .s5, .yield .between] ∧
    (inTickAt [.rx .eoiTest]).work.wait = .reached ∧ { demo.work with wait := .timeout }.wait = .timeout ∧
    (inTickAt [.rx .eoiTest]).fl.atnActive = false ∧ (underAtn (.primary 0)).fl.atnActive = true ∧
    (inTickAt [.rx .eoiPulsed]).seq = .rx .eoiPulsed :: [.tick .s5, .yield .between] := by decide

theorem witness_ReceivedBits : (inTickAt [.rx (.sample 7 0x7F false)]).seq =
      .rx (.sample 7 0x7F false) :: [.tick .s5, .yield .between] ∧ (0x7F : Byte).getLsbD 7 = false ∧
    (0x00 : Byte).getLsbD 0 = false := by decide

/-- At the end of a data byte for device 8, listening on `sec`, with `n` bytes captured. -/
def received (sec : Byte) (n : Nat) : State :=
  { inTickAt [.rx (.byte 0x41 true)] with
    sel := ⟨some 0, some 0, sec, none, 0⟩, cmd := { demo.cmd with len := n } }

theorem witness_DataBytes : (received 0x61 0).seq = .rx (.byte 0x41 true) :: [.tick .s5, .yield .between] ∧
    (received 0x61 0).sel.current = some 0 ∧ (received 0x61 0).dol.preN = 0 ∧ (received 0x61 0).fl.atnActive = false ∧
    { demo.dol with preN := 1 }.preN > 0 ∧ (received 0x61 0).dol.preDev = 0 ∧ (received 0x61 0).sel.listener = some 0 ∧
    (received 0x61 0).sel.listenerSec = 0x61 ∧ (received 0x61 0).sel.listenerSec ≠ 0x6F ∧ (received 0x6F 63).cmd.len < demo.cfg.cmd15Max ∧
    demo.cfg.cmd15Max ≤ (received 0x6F 64).cmd.len := by decide

theorem witness_Transmit : (inTickAt [.tx (.ready 0 1 false)]).seq = .tx (.ready 0 1 false) :: [.tick .s5, .yield .between] ∧
    (inTickAt [.tx (.highHeld 0 0x41 6)]).seq = .tx (.highHeld 0 0x41 6) :: [.tick .s5, .yield .between] ∧
    (inTickAt [.tx (.lowHeld 0 0x41 0)]).seq = .tx (.lowHeld 0 0x41 0) :: [.tick .s5, .yield .between] ∧
    (inTickAt [.tx (.highHeld 0 0x41 7)]).seq = .tx (.highHeld 0 0x41 7) :: [.tick .s5, .yield .between] ∧
    (inTickAt [.tx (.acked 0)]).seq = .tx (.acked 0) :: [.tick .s5, .yield .between] ∧
    (inTickAt [.tx .committed]).seq = .tx .committed :: [.tick .s5, .yield .between] ∧
    (inTickAt [.tx (.peeked 0)]).seq = .tx (.peeked 0) :: [.tick .s5, .yield .between] ∧
    (inTickAt [.tx (.high 0 0)]).seq = .tx (.high 0 0) :: [.tick .s5, .yield .between] ∧
    (inTickAt [.tx (.send 0 0)]).seq = .tx (.send 0 0) :: [.tick .s5, .yield .between] ∧
    (inTickAt [.tick (.transmit 0 1)]).seq = .tick (.transmit 0 1) :: [.tick .s5, .yield .between] ∧
    demo.flag 0 .jiffyBlock = false ∧ demo.flag 0 .jiffyDetected = false ∧ demo.flag 0 .dolphinDetected = false := by
  decide

theorem witness_JiffyLookup : demo.cfg.jiffyLookup = .lowNibble ∧ jiffyLookup demo 0x28 = some 0 ∧
    jiffyLookup demo 0x2F = none := by decide

theorem witness_ZeroLengthBlock : (inTickAt [.jiffy .eoiHeld]).seq = .jiffy .eoiHeld :: [.tick .s5, .yield .between] ∧
    (inTickAt [.jiffy .eoiHeld]).fl.irqPending = false ∧ (inTickAt [.jiffy .eoiHeld]).fl.inTick = true := by decide

/-- Device 8 saves, with one byte held. -/
def saving : State :=
  { inTickAt [.dol (.rxData 0 false)] with
    sel := ⟨some 0, some 0, 0x61, none, 0⟩, dol := { demo.dol with preArm := true, preN := 1 }, buf := [(0, 0x01)] }

theorem witness_FirstSaveBytes : saving.seq = .dol (.rxData 0 false) :: [.tick .s5, .yield .between] ∧
    saving.dol.preArm = true ∧ saving.sel.listener = some 0 ∧ saving.sel.listenerSec = 0x61 ∧
    saving.dol.preN < saving.cfg.prebufferBytes ∧ saving.dol.preN < saving.cfg.bufSize ∧
    saving.cfg.prebufferBytes ≤ { saving.dol with preN := 2 }.preN ∧ 0 < { saving.dol with preN := 2 }.preN ∧
    saving.dol.preDev = 0 := by decide

/-- Two bytes held for device 8. -/
def holding (sel : SelRegs) : State :=
  { demo with dol := { demo.dol with preN := 2 }, buf := [(0, 0x01), (1, 0x08)], sel := sel }

theorem witness_HeldBytes : (holding demo.sel).dol.preN = (([0x01] : List Byte) ++ [0x08]).length ∧
    (holding demo.sel).dol.preN ≤ demo.cfg.bufSize ∧
    (∀ a < (holding demo.sel).dol.preN, memGet (holding demo.sel).buf a = (([0x01] : List Byte) ++ [0x08])[a]?) ∧
    1 = (([] : List Byte) ++ [0x08]).length ∧
    (holding demo.sel).sel.listener ≠ some 0 ∧ (holding ⟨some 0, some 0, 0x61, none, 0⟩).sel.listenerSec = 0x61 ∧
    (holding ⟨some 0, some 0, 0x62, none, 0⟩).sel.listener = some (holding demo.sel).dol.preDev ∧
    (holding ⟨some 0, some 0, 0x62, none, 0⟩).sel.listenerSec ≠ 0x61 := by decide

/-- Bytes held, one device with the flags `f`, at the statements `ps`. -/
def claiming (f : BitVec 12) (ps : List Pos) : State :=
  { inTickAt ps with dev := [⟨true, 8, f, ⟨0, true, true⟩, 0x129⟩], dol := { demo.dol with preN := 1 } }

theorem witness_HeldBytes_claims : (claiming 0x12F []).dol.preN ≠ 0 ∧
    (claiming 0x12F [.tick (.transmit 0 1)]).seq = .tick (.transmit 0 1) :: [.tick .s5, .yield .between] ∧
    (claiming 0x12F []).flag 0 .jiffyBlock = true ∧
    (claiming 0x529 [.tick .s4]).seq = .tick .s4 :: [.tick .s5, .yield .between] ∧
    leastWith (claiming 0x529 []) [.epyxHeader, .epyxLoad, .epyxSectorOp] = some 0 ∧
    (claiming 0x529 []).flag 0 .epyxHeader = false ∧ (claiming 0x529 []).flag 0 .epyxLoad = true ∧
    (claiming 0x929 [.epyx (.sectorCommand 0 1 2)]).seq = .epyx (.sectorCommand 0 1 2) :: [.tick .s5, .yield .between] ∧
    sectorOp ⟨true, [⟨1, 2, 3, .write⟩], .read⟩ 1 2 3 = .write ∧
    sectorOp ⟨true, [⟨1, 2, 3, .write⟩], .read⟩ 1 2 4 = .read := by decide

/-- Bytes held, at the sector byte `sec` of a command without a command byte; track 1, sector 2 is a write. -/
def noCommand (sec : Byte) : State :=
  { claiming 0x929 [.epyx (.sectorSector 0 1)] with
    cfg := { demoCfg with sectorBA := ⟨false, [⟨1, 2, 0, .write⟩], .read⟩ }
    epyx := { demo.epyx with sum := 0xBA }
    work := { demo.work with byte := sec } }

theorem witness_HeldBytes_noCommand : (noCommand 2).dol.preN ≠ 0 ∧
    (noCommand 2).seq = .epyx (.sectorSector 0 1) :: [.tick .s5, .yield .between] ∧
    (sectorFormat (noCommand 2).cfg (noCommand 2).epyx.sum).hasCommand = false ∧
    sectorOp (sectorFormat (noCommand 2).cfg (noCommand 2).epyx.sum) 1 (noCommand 2).work.byte 0x00 = .write ∧
    sectorOp (sectorFormat (noCommand 3).cfg (noCommand 3).epyx.sum) 1 (noCommand 3).work.byte 0x00 = .read := by decide

theorem witness_DolphinAcknowledge : (inTickAt [.dol .txAcked]).seq = .dol .txAcked :: [.tick .s5, .yield .between] ∧
    (inTickAt [.dol .txAcked]).fl.inTick = true ∧ (inTickAt [.dol .txAcked]).work.wait = .reached := by decide

/-- In step S3 with the burst of flag bits `f` requested `age` µs ago. -/
def pending (f : BitVec 12) (age : Micros) : State :=
  { inTickAt [.tick .s3] with
    dev := [⟨true, 8, 0x028 ||| f, ⟨0, true, true⟩, 0x028⟩], dol := { demo.dol with reqTime := 5000 - age } }

theorem witness_PendingBurst : (pending 0x040 201).seq = .tick .s3 :: [.tick .s5, .yield .between] ∧
    (pending 0x040 201).bus.mode = .idle ∧ (pending 0x040 201).cfg.dolphinDirOk = .released ∧
    (pending 0x040 201).fl.atnActive = false ∧ (pending 0x040 201).drv.parOutMode = false ∧
    { demoCfg with dolphinDirOk := .fixed true false }.dolphinDirOk = .fixed true false ∧
    leastWith (pending 0x040 201) [.dolphinBurstTx, .dolphinBurstRx] = some 0 ∧
    (pending 0x040 201).flag 0 .dolphinBurstTx = true ∧ (pending 0x080 501).flag 0 .dolphinBurstTx = false ∧
    leastWith (pending 0x080 501) [.dolphinBurstTx, .dolphinBurstRx] = some 0 ∧
    demo.cfg.tDolBurstTxDelay + demo.cfg.tTol ≤ elapsed (pending 0x040 201) (pending 0x040 201).dol.reqTime ∧
    elapsed (pending 0x040 198) (pending 0x040 198).dol.reqTime + demo.cfg.tTol < demo.cfg.tDolBurstTxDelay ∧
    demo.cfg.tDolBurstRxDelay + demo.cfg.tTol ≤ elapsed (pending 0x080 501) (pending 0x080 501).dol.reqTime ∧
    elapsed (pending 0x080 498) (pending 0x080 498).dol.reqTime + demo.cfg.tTol < demo.cfg.tDolBurstRxDelay := by decide

/-- Listening to device 8, at the statements `ps`. -/
def listening (done : Bool) (ps : List Pos) : State :=
  { inTickAt ps with bus := ⟨.listening, done⟩, sel := ⟨some 0, some 0, 0x61, none, 0⟩ }

theorem witness_ListenStep : (listening true []).seq = .tick .s5 :: [.yield .between] ∧
    (listening true []).bus.mode = .listening ∧ (listening true []).bus.done = true ∧
    (listening false []).bus.done = false ∧ (listening false []).sel.current = some 0 ∧
    (listening false [.tick (.listen 0xFF)]).seq = .tick (.listen 0xFF) :: [.tick .s5, .yield .between] ∧
    (0xFF : BitVec 8).msb = true ∧ (1 : BitVec 8).msb = false ∧ (0x7F : BitVec 8).msb = false ∧ (0x80 : BitVec 8).msb = true ∧
    (listening false [.tick .canWrite]).seq = .tick .canWrite :: [.tick .s5, .yield .between] ∧
    { listening false [] with bus := ⟨.underAtn, false⟩ }.bus.mode = .underAtn ∧ readLine demo .clk = .high ∧
    readLine { demo with env := { demo.env with drives := { demo.env.drives with hostClk := true } } } .clk = .low ∧
    demo.flag 0 .jiffyDetected = false ∧ demo.flag 0 .dolphinDetected = false ∧
    (claiming 0x12B []).flag 0 .jiffyDetected = true ∧ (claiming 0x139 []).flag 0 .dolphinDetected = true := by decide

/-- Talking for device 8, the last byte sent at 4000 + `late` µs, at the statements `ps`; `demo`'s clock is at 5000. -/
def talkingAt (late : Micros) (ps : List Pos) : State :=
  { inTickAt ps with bus := ⟨.talking, false⟩, sel := ⟨some 0, none, 0, some 0, 0x60⟩, talk := ⟨false, 4000 + late⟩ }

theorem witness_TalkStep : (talkingAt 0 []).bus.mode = .talking ∧ (talkingAt 0 []).sel.current = some 0 ∧
    { talkingAt 0 [] with seq := [.tick .s6] }.seq = .tick .s6 :: [] ∧ (talkingAt 0 []).bus.done = false ∧
    { (talkingAt 0 []).bus with done := true }.done = true ∧ demo.bus.mode ≠ .talking ∧
    (talkingAt 0 [.tick (.canRead 0)]).seq = .tick (.canRead 0) :: [.tick .s5, .yield .between] ∧
    (talkingAt 0 [.tick (.talk 0 1)]).seq = .tick (.talk 0 1) :: [.tick .s5, .yield .between] ∧
    (0xFF : BitVec 8).msb = true ∧ (1 : BitVec 8).msb = false ∧ (talkingAt 0 []).talk.txFirst = false ∧
    elapsed (talkingAt 802 []) (talkingAt 802 []).talk.lastTxTime + demo.cfg.tTol < demo.cfg.tIecTalkGap ∧
    demo.cfg.tIecTalkGap + demo.cfg.tTol ≤ elapsed (talkingAt 799 []) (talkingAt 799 []).talk.lastTxTime ∧
    demo.talk.txFirst = true ∧
    (talkingAt 0 [.tick (.transmit 0 1)]).seq = .tick (.transmit 0 1) :: [.tick .s5, .yield .between] ∧
    (claiming 0x12F []).flag 0 .jiffyBlock = true ∧ (claiming 0x12B []).flag 0 .jiffyBlock = false := by decide

theorem witness_TickEnds : (inTickAt [.tick .s8]).seq = .tick .s8 :: [.tick .s5, .yield .between] ∧
    (inTickAt [.tick .finish]).seq = .tick .finish :: [.tick .s5, .yield .between] ∧
    (inTickAt [.tick .finish]).fl.irqMasked = false ∧ atnMismatch (inTickAt [.tick .finish]) = false ∧
    readLine (atnLow (inTickAt [.tick .finish])) .atn = .low ∧
    (atnLow (inTickAt [.tick .finish])).fl.atnActive = false := by decide

end Sys2Proof.Tests
end

/-! # Proofs for 00_scope: what the engine's statements leave alone, and the line wait -/

namespace Sys2Proof.Machine

/-! ## What no statement of the engine writes (10_state R106, R160) -/

/-- The values that only a move of another agent changes: the line drives, the clock, the moves to come, the
configuration, the registry, and the engine's number in it. -/
abbrev Outside := Drives × Micros × List Move × Cfg × List RegistrySlot × Nat

/-- The outside of a state. -/
def outside (s : State) : Outside :=
  (s.env.drives, s.env.micros, s.env.feed, s.cfg, s.registry, s.engine)

theorem outside_eq_iff {s t : State} : outside t = outside s ↔
    SameAgents s t ∧ t.cfg = s.cfg ∧ t.registry = s.registry ∧ t.engine = s.engine := by
  simp [outside, SameAgents, and_assoc]

/-- The next state of an answer, if there is one, has the outside `o`. -/
def OutsideIs (o : Outside) (r : Res) : Prop :=
  match r with
  | .next t => outside t = o
  | .fault _ => True
  | .refused _ => True

variable {o : Outside} {s : State}

theorem outsideIs_andThen {r : Res} {f : State → Res} (hr : OutsideIs o r)
    (hf : ∀ t, outside t = o → OutsideIs o (f t)) : OutsideIs o (andThen r f) := by
  cases r with
  | next t => exact hf t hr
  | fault e => trivial
  | refused e => trivial

/-! ### The updates with a test of their own

The other updates of `State` are single record updates, for which `outside` of the new state reduces to `outside` of the
old one. -/

theorem outside_setHt (on : Bool) (s : State) : outside (setHt on s) = outside s := by simp [outside]

theorem outside_override (on : Bool) (s : State) : outside (override on s) = outside s := by simp [outside]

theorem outside_parOutput (b : Byte) (s : State) : outside (parOutput b s) = outside s := by simp [outside]

theorem outside_atnFall (s : State) : outside (atnFall s) = outside s := by simp [outside]

theorem outside_cmdAppend (b : Byte) (s : State) : outside (cmdAppend b s) = outside s := by
  unfold cmdAppend
  split <;> rfl

theorem outside_atnIsr (s : State) : outside (atnIsr s) = outside s := by
  unfold atnIsr
  split
  · rfl
  · split
    · rfl
    · split
      · exact outside_atnFall s
      · rfl

theorem outside_unmaskIrq (s : State) : outside (unmaskIrq s) = outside s := by
  unfold unmaskIrq
  split
  · exact outside_atnIsr _
  · rfl

theorem outside_atnRequest (s : State) : outside (atnRequest s) = outside s := by
  unfold atnRequest
  split
  · exact outside_atnFall s
  · split <;> rfl

theorem outside_resetStep (s : State) : outside (resetStep s) = outside s := by
  unfold resetStep
  split
  · dsimp only
    split <;> rfl
  · rfl

theorem outside_addDevice (h : Handle) (flags : BitVec 12) (s : State) : outside (addDevice h flags s) = outside s := by
  unfold addDevice
  dsimp only
  split <;> rfl

theorem outside_dolphinRequest (k : Nat) (dir : BurstDir) (s : State) :
    outside (dolphinRequest k dir s) = outside s := by
  unfold dolphinRequest
  split
  · cases dir <;> rfl
  · rfl

theorem outside_burstEnable (k : Nat) (on : Bool) (s : State) : outside (burstEnable k on s) = outside s := by
  unfold burstEnable
  split
  · split <;> rfl
  · rfl

theorem outside_epyxReset (s : State) : outside (epyxReset s) = outside s := by
  unfold epyxReset
  split <;> rfl

theorem outside_epyxMw (k : Nat) (addr : BitVec 16) (len : Byte) (bs : List Byte) (s : State) :
    outside (epyxMw k addr len bs s) = outside s := by
  unfold epyxMw
  split
  · exact outside_epyxReset s
  · split
    · exact outside_epyxReset s
    · dsimp only
      split
      · rfl
      · split
        · rfl
        · exact outside_epyxReset s

theorem outside_epyxMe (k : Nat) (addr : BitVec 16) (s : State) : outside (epyxMe k addr s) = outside s := by
  unfold epyxMe
  split
  · exact outside_epyxReset _
  · exact outside_epyxReset s

/-! ### Failures -/

theorem outside_onFail (kind : ErrKind) (s : State) : outside (onFail kind s) = outside s := by
  cases kind <;> rfl

theorem outside_unwind (kind : ErrKind) (ps : List Pos) (s : State) : outside (unwind kind ps s) = outside s := by
  fun_induction unwind kind ps s with
  | case9 => rfl
  | case10 r s ih => exact ih
  | case11 p r s _ _ _ _ _ _ _ _ _ ih => exact ih
  | _ => exact outside_onFail kind _

theorem outside_unguard (s : State) : outside (unguard s) = outside s := by
  unfold unguard
  dsimp only
  split
  · split <;> exact outside_unmaskIrq s
  · split <;> rfl

theorem outsideIs_failWith (kind : ErrKind) (h : outside s = o) : OutsideIs o (failWith kind s) := by
  have unwound : outside (unwind kind s.seq (unguard s)) = o :=
    (outside_unwind kind _ _).trans ((outside_unguard s).trans h)
  cases kind with
  | verifyError => trivial
  | notAddressed => trivial
  | timeoutMissedEdge => exact unwound
  | atnPreempted => exact unwound
  | deviceRefused => exact unwound
  | checksumMismatch => exact unwound

theorem outsideIs_settle (r : WaitResult) (h : outside s = o) : OutsideIs o (settle r s) := by
  cases r with
  | reached => exact h
  | timeout => exact outsideIs_failWith .timeoutMissedEdge h
  | atnAbort => exact outsideIs_failWith .atnPreempted h

/-! ### Lines, masking and buffers -/

theorem outsideIs_driveLine (l : Line) (on : Bool) (h : outside s = o) : OutsideIs o (driveLine l on s) := by
  cases l with
  | clk => exact h
  | data => exact h
  | ctrl => exact (outside_override on s).trans h
  | ht => exact (outside_setHt on s).trans h
  | par k => unfold driveLine; dsimp only; split <;> exact h
  | atn => trivial
  | reset => trivial
  | hr => trivial

theorem outsideIs_pulseLow (l : Line) (t : Nat) (strict : Bool) (ps : List Pos) (h : outside s = o) :
    OutsideIs o (pulseLow l t strict ps s) :=
  outsideIs_andThen (outsideIs_driveLine l true h) fun _ ht => ht

theorem outsideIs_maskIrq (h : outside s = o) : OutsideIs o (maskIrq s) := by
  unfold maskIrq
  split
  · trivial
  · exact h

/-- A masked block begins with `mask_irq()`. -/
theorem outsideIs_masked {f : State → Res} (h : outside s = o) (hf : ∀ t, outside t = o → OutsideIs o (f t)) :
    OutsideIs o (andThen (maskIrq s) f) :=
  outsideIs_andThen (outsideIs_maskIrq h) hf

theorem outsideIs_bufWrite (i : Nat) (b : Byte) (h : outside s = o) : OutsideIs o (bufWrite i b s) := by
  unfold bufWrite
  split
  · exact h
  · trivial

theorem outsideIs_bufFill (i : Nat) (bs : List Byte) (h : outside s = o) : OutsideIs o (bufFill i bs s) := by
  induction bs generalizing i s with
  | nil => exact h
  | cons b bs ih => exact outsideIs_andThen (outsideIs_bufWrite i b h) fun _ ht => ih _ ht

theorem outsideIs_dolFlush (ps : List Pos) (h : outside s = o) : OutsideIs o (dolFlush ps s) := by
  unfold dolFlush
  split
  · trivial
  · exact h

theorem outsideIs_flushThen (p : Pos) {f : State → Res} (hf : OutsideIs o (f s)) (h : outside s = o) :
    OutsideIs o (flushThen p f s) := by
  unfold flushThen
  split
  · exact hf
  · exact outsideIs_dolFlush _ h

theorem outsideIs_flushBeforeCall (k : Nat) (isListen : Bool) (sec : Byte) (p : Pos) {f : State → Res}
    (hf : OutsideIs o (f s)) (h : outside s = o) : OutsideIs o (flushBeforeCall k isListen sec p f s) := by
  unfold flushBeforeCall
  split
  · exact hf
  · exact outsideIs_flushThen p hf h

theorem outsideIs_dolHold (k : Nat) (b : Byte) (eoi : Bool) {f : State → Res} (hf : OutsideIs o (f s))
    (h : outside s = o) : OutsideIs o (dolHold k b eoi f s) := by
  unfold dolHold
  split
  · exact outsideIs_andThen (outsideIs_bufWrite _ b h) fun _ ht => ht
  · exact hf

theorem outsideIs_dolCapture (b : Byte) (h : outside s = o) : OutsideIs o (dolCapture b s) := by
  unfold dolCapture
  split
  · exact outsideIs_andThen (outsideIs_bufWrite _ b h) fun _ ht => ht
  · exact h

theorem outsideIs_deliver (k : Nat) (b : Byte) (eoi : Bool) (h : outside s = o) : OutsideIs o (deliver k b eoi s) := by
  have appended : outside (cmdAppend b s) = o := (outside_cmdAppend b s).trans h
  unfold deliver
  dsimp only
  split
  · split
    · exact outsideIs_dolFlush _ appended
    · exact appended
  · split
    · exact outsideIs_dolFlush _ h
    · exact h

theorem outsideIs_withCurrent {f : Nat → Res} (hf : ∀ k, OutsideIs o (f k)) : OutsideIs o (withCurrent s f) := by
  unfold withCurrent
  split
  · exact hf _
  · trivial

/-! ### The DolphinDOS engine -/

theorem outsideIs_probeIfArmed (k : Option Nat) (h : outside s = o) : OutsideIs o (probeIfArmed k s) := by
  cases k with
  | none => exact h
  | some k => unfold probeIfArmed; dsimp only; split <;> exact h

theorem outsideIs_probeEnd (k : Nat) (h : outside s = o) : OutsideIs o (probeEnd k s) := by
  unfold probeEnd
  split
  · exact h
  · exact outsideIs_pulseLow _ _ _ _ h
  · exact outsideIs_pulseLow _ _ _ _ h

theorem outsideIs_dolRxEdge (k : Nat) (h : outside s = o) : OutsideIs o (dolRxEdge k s) := by
  unfold dolRxEdge
  split
  · exact outsideIs_failWith _ h
  · exact outsideIs_pulseLow _ _ _ _ h
  · exact h

theorem outsideIs_dolRxData (k : Nat) (eoi : Bool) (h : outside s = o) : OutsideIs o (dolRxData k eoi s) :=
  outsideIs_dolHold (s := setData true s) k _ eoi (outsideIs_deliver k _ eoi h) h

theorem outsideIs_dolTransmit (k n : Nat) (h : outside s = o) : OutsideIs o (dolTransmit k n s) := by
  unfold dolTransmit
  split
  · exact h
  · exact outsideIs_masked h fun _ ht => ht

theorem outsideIs_dolTxReady (k n : Nat) (b : Byte) (h : outside s = o) : OutsideIs o (dolTxReady k n b s) := by
  unfold dolTxReady
  split <;> exact h

theorem outsideIs_dolTxValid (k : Nat) (b : Byte) (h : outside s = o) : OutsideIs o (dolTxValid k b s) :=
  (outside_unmaskIrq _).trans ((outside_parOutput b s).trans h)

theorem outsideIs_dolTxRead (b : Byte) (h : outside s = o) : OutsideIs o (dolTxRead b s) :=
  outsideIs_andThen (outsideIs_dolCapture b h) fun _ ht => ht

theorem outsideIs_dolTxAcked (h : outside s = o) : OutsideIs o (dolTxAcked s) := by
  unfold dolTxAcked
  dsimp only
  split
  · exact outsideIs_failWith _ h
  · exact outsideIs_failWith _ h
  · exact h

theorem outsideIs_dolphinPending (h : outside s = o) : OutsideIs o (dolphinPending s) := by
  unfold dolphinPending
  split
  · exact h
  · next k _ =>
    dsimp only
    generalize (if s.flag k .dolphinBurstTx then BurstDir.tx else BurstDir.rx) = dir
    split
    · exact h
    · split
      · exact h
      · cases dir <;> exact h

theorem outsideIs_burstSend (b : Byte) (ps : List Pos) (h : outside s = o) : OutsideIs o (burstSend b ps s) :=
  outsideIs_masked h fun t ht => outsideIs_pulseLow _ _ _ _ ((outside_parOutput _ t).trans ht)

theorem outsideIs_burstHeld (k i : Nat) (h : outside s = o) : OutsideIs o (burstHeld k i s) := by
  unfold burstHeld
  split
  · split
    · trivial
    · exact outsideIs_burstSend _ _ h
  · exact h

theorem outsideIs_burstCount (k : Nat) (h : outside s = o) : OutsideIs o (burstCount k s) := by
  unfold burstCount
  dsimp only
  split
  · exact h
  · split <;> exact h

theorem outsideIs_burstTake (k : Nat) (h : outside s = o) : OutsideIs o (burstTake k s) :=
  outsideIs_pulseLow _ _ _ _ h

theorem outsideIs_burstWait (k : Nat) (h : outside s = o) : OutsideIs o (burstWait k s) :=
  outsideIs_masked h fun _ ht => ht

theorem outsideIs_runDol (p : DolPos) (h : outside s = o) : OutsideIs o (runDol p s) := by
  cases p with
  | rxEdge k => exact outsideIs_dolRxEdge k h
  | rxPulsed k => exact h
  | rxData k eoi => exact outsideIs_dolRxData k eoi h
  | txEmpty => exact outsideIs_failWith .deviceRefused h
  | txPeeked k n => exact h
  | txReady k n b => exact outsideIs_dolTxReady k n b h
  | txHigh k b => exact h
  | txValid k b => exact outsideIs_dolTxValid k b h
  | txRead b => exact outsideIs_dolTxRead b h
  | txAcked => exact outsideIs_dolTxAcked h
  | sendPulsed => exact h
  | sendTaken => exact (outside_unmaskIrq s).trans h
  | burstTalk k => exact outsideIs_burstHeld (s := burstClk true s) k 0 h
  | burstHeld k i => exact outsideIs_burstHeld k i h
  | burstAsk k => exact h
  | burstCount k => exact outsideIs_burstCount k h
  | burstByte k => exact outsideIs_burstSend _ _ h
  | burstEnd => exact h
  | burstListen k => exact outsideIs_burstWait (s := parInput s) k h
  | burstTake k => exact outsideIs_burstTake k h
  | burstTaken k b eoi => exact (outside_unmaskIrq s).trans h
  | burstNext k eoi =>
    unfold runDol
    dsimp only
    split
    · exact h
    · exact outsideIs_burstWait k h
  | releaseClk => exact h
  | returned =>
    unfold runDol
    dsimp only
    split
    · trivial
    · exact h

/-! ### The standard byte -/

theorem outsideIs_iecReceive (h : outside s = o) : OutsideIs o (iecReceive s) := by
  unfold iecReceive
  dsimp only
  split <;> exact h

theorem outsideIs_rxEoiTest (h : outside s = o) : OutsideIs o (rxEoiTest s) := by
  unfold rxEoiTest
  split
  · exact outsideIs_failWith _ h
  · split
    · exact h
    · exact outsideIs_pulseLow _ _ _ _ h
  · exact h

theorem outsideIs_rxBit (i : Nat) (rx : Byte) (eoi : Bool) (h : outside s = o) : OutsideIs o (rxBit i rx eoi s) := by
  unfold rxBit
  split <;> exact h

theorem outsideIs_rxWindow (rx : Byte) (eoi : Bool) (h : outside s = o) : OutsideIs o (rxWindow rx eoi s) := by
  unfold rxWindow
  dsimp only
  split
  · exact outsideIs_failWith _ h
  · exact h
  · split
    · exact h
    · exact outsideIs_pulseLow _ _ _ _ h

theorem outsideIs_rxAck (rx : Byte) (eoi newSec : Bool) (h : outside s = o) : OutsideIs o (rxAck rx eoi newSec s) := by
  unfold rxAck
  dsimp only
  split
  · exact outsideIs_withCurrent fun k => outsideIs_deliver k rx eoi h
  · split
    · exact outsideIs_probeIfArmed _ h
    · exact h

theorem outsideIs_rxByte (rx : Byte) (eoi : Bool) (h : outside s = o) : OutsideIs o (rxByte rx eoi s) := by
  unfold rxByte
  split
  · split
    · exact h
    · split
      · exact h
      · split
        · exact outsideIs_rxAck rx eoi false h
        · exact h
  · exact outsideIs_rxAck rx eoi false h

theorem outsideIs_runRx (p : RxPos) (h : outside s = o) : OutsideIs o (runRx p s) := by
  cases p with
  | clkFall => exact h
  | eoiTest => exact outsideIs_rxEoiTest h
  | eoiPulsed => exact h
  | bit i rx eoi => exact outsideIs_rxBit i rx eoi h
  | window rx eoi => exact outsideIs_rxWindow rx eoi h
  | detected j rx eoi => exact h
  | sample i rx eoi => exact h
  | byte rx eoi => exact outsideIs_rxByte rx eoi h
  | ack rx eoi newSec => exact outsideIs_rxAck rx eoi newSec h
  | probe k => exact outsideIs_probeEnd k h

theorem outsideIs_captureAddress (rx : Byte) (a : BitVec 5) (h : outside s = o) :
    OutsideIs o (captureAddress rx a s) := by
  unfold captureAddress
  dsimp only
  split <;> exact h

theorem outsideIs_captureSecondary (rx : Byte) (h : outside s = o) : OutsideIs o (captureSecondary rx s) := by
  unfold captureSecondary
  dsimp only
  split
  · exact h
  · split
    · exact h
    · exact outsideIs_rxAck rx false true h

theorem outsideIs_txSend (k n : Nat) (h : outside s = o) : OutsideIs o (txSend k n s) := by
  unfold txSend
  split
  · exact outsideIs_failWith _ h
  · exact h

theorem outsideIs_txReady (k n : Nat) (verify : Bool) (h : outside s = o) : OutsideIs o (txReady k n verify s) := by
  unfold txReady
  split
  · exact h
  · exact outsideIs_txSend k n h

theorem outsideIs_txNext (k : Nat) (b : Byte) (i : Nat) (h : outside s = o) : OutsideIs o (txNext k b i s) := by
  unfold txNext
  split <;> exact h

theorem outsideIs_runTx (p : TxPos) (h : outside s = o) : OutsideIs o (runTx p s) := by
  cases p with
  | ready k n verify => exact outsideIs_txReady k n verify h
  | high k n => exact h
  | send k n => exact outsideIs_txSend k n h
  | peeked k => exact h
  | lowHeld k b i => exact h
  | highHeld k b i => exact outsideIs_txNext k b i h
  | acked k => exact h
  | committed => exact h

/-! ### The JiffyDOS engine -/

theorem outsideIs_jiffyReceive (k : Nat) (h : outside s = o) : OutsideIs o (jiffyReceive k s) :=
  outsideIs_masked h fun _ ht => ht

theorem outsideIs_jiffyRxPair (k : Nat) (t0 : Micros) (i : Nat) (rx : Byte) (h : outside s = o) :
    OutsideIs o (jiffyRxPair k t0 i rx s) := by
  unfold jiffyRxPair
  dsimp only
  split <;> exact h

theorem outsideIs_jiffyTxStart (k : Nat) (st : TxStatus) (b : Byte) (h : outside s = o) :
    OutsideIs o (jiffyTxStart k st b s) :=
  outsideIs_masked h fun _ ht => ht

theorem outsideIs_jiffyTransmit (k n : Nat) (h : outside s = o) : OutsideIs o (jiffyTransmit k n s) := by
  unfold jiffyTransmit
  dsimp only
  split
  · exact h
  · exact outsideIs_jiffyTxStart k _ _ h

theorem outsideIs_jiffyTxPair (k : Nat) (st : TxStatus) (b : Byte) (t0 : Micros) (i : Nat) (h : outside s = o) :
    OutsideIs o (jiffyTxPair k st b t0 i s) := by
  unfold jiffyTxPair
  dsimp only
  split <;> exact h

theorem outsideIs_jiffyTxAcked (k : Nat) (st : TxStatus) (h : outside s = o) : OutsideIs o (jiffyTxAcked k st s) := by
  have unmasked : outside (unmaskIrq s) = o := (outside_unmaskIrq s).trans h
  unfold jiffyTxAcked
  dsimp only
  split
  · exact outsideIs_failWith _ unmasked
  · exact unmasked

theorem outsideIs_jiffyEoiBlock (h : outside s = o) : OutsideIs o (jiffyEoiBlock s) :=
  outsideIs_masked h fun _ ht => ht

theorem outsideIs_jiffyBlockByte (m j : Nat) (h : outside s = o) : OutsideIs o (jiffyBlockByte m j s) :=
  outsideIs_masked h fun _ ht => ht

theorem outsideIs_jiffyBlockPair (m j : Nat) (t0 : Micros) (i : Nat) (h : outside s = o) :
    OutsideIs o (jiffyBlockPair m j t0 i s) := by
  unfold jiffyBlockPair
  split
  · trivial
  · dsimp only
    split <;> exact h

theorem outsideIs_jiffyBlockEnd (m j : Nat) (h : outside s = o) : OutsideIs o (jiffyBlockEnd m j s) := by
  have unmasked : outside (unmaskIrq (setData false s)) = o := (outside_unmaskIrq _).trans h
  unfold jiffyBlockEnd
  dsimp only
  split
  · exact outsideIs_jiffyBlockByte m _ unmasked
  · exact unmasked

theorem outsideIs_jiffyBlockClaimed (k n : Nat) (h : outside s = o) : OutsideIs o (jiffyBlockClaimed k n s) := by
  unfold jiffyBlockClaimed
  dsimp only
  split
  · exact outsideIs_jiffyEoiBlock h
  · exact h

theorem outsideIs_jiffyBlockStep (k n : Nat) (h : outside s = o) : OutsideIs o (jiffyBlockStep k n s) :=
  outsideIs_flushThen _ (outsideIs_jiffyBlockClaimed k n h) h

theorem outsideIs_jiffyBlockFilled (h : outside s = o) : OutsideIs o (jiffyBlockFilled s) := by
  refine outsideIs_andThen (outsideIs_bufFill 0 _ h) fun t ht => ?_
  split
  · exact outsideIs_jiffyEoiBlock ht
  · exact outsideIs_jiffyBlockByte _ 0 ht

theorem outsideIs_runJiffy (p : JiffyPos) (h : outside s = o) : OutsideIs o (runJiffy p s) := by
  cases p with
  | rxEdge k => exact h
  | rxPair k t0 i rx => exact outsideIs_jiffyRxPair k t0 i rx h
  | rxEoi k t0 rx => exact h
  | rxDone k rx eoi => exact outsideIs_deliver k rx eoi ((outside_unmaskIrq s).trans h)
  | txPeeked k st => exact outsideIs_jiffyTxStart k st _ h
  | txEdge k st b => exact h
  | txPair k st b t0 i => exact outsideIs_jiffyTxPair k st b t0 i h
  | txStatus k st => exact h
  | txHeld k st => exact h
  | txAcked k st => exact outsideIs_jiffyTxAcked k st h
  | claimed k n => exact outsideIs_jiffyBlockClaimed k n h
  | filled => exact outsideIs_jiffyBlockFilled h
  | blockHigh m j => exact h
  | blockEdge m j => exact h
  | blockPair m j t0 i => exact outsideIs_jiffyBlockPair m j t0 i h
  | blockEnd m j => exact outsideIs_jiffyBlockEnd m j h
  | eoiHeld => exact (outside_unmaskIrq (setClk true s)).trans h

/-! ### The Epyx engine -/

theorem outsideIs_epyxReceive (ps : List Pos) (h : outside s = o) : OutsideIs o (epyxReceive ps s) :=
  outsideIs_masked h fun _ ht => ht

theorem outsideIs_epyxRxBit (i : Nat) (v : Byte) (lvl : Level) (h : outside s = o) :
    OutsideIs o (epyxRxBit i v lvl s) := by
  unfold epyxRxBit
  dsimp only
  split
  · exact h
  · exact (outside_unmaskIrq s).trans h

theorem outsideIs_epyxTransmit (b : Byte) (ps : List Pos) (h : outside s = o) : OutsideIs o (epyxTransmit b ps s) :=
  outsideIs_masked h fun _ ht => ht

theorem outsideIs_epyxTxPair (v : Byte) (t0 : Micros) (i : Nat) (h : outside s = o) :
    OutsideIs o (epyxTxPair v t0 i s) := by
  unfold epyxTxPair
  dsimp only
  split <;> exact h

theorem outsideIs_epyxHeaderByte (k i : Nat) (sum : Byte) (h : outside s = o) :
    OutsideIs o (epyxHeaderByte k i sum s) := by
  unfold epyxHeaderByte
  dsimp only
  split
  · exact outsideIs_epyxReceive _ h
  · exact h

theorem outsideIs_epyxSector (k : Nat) (sum : Byte) (h : outside s = o) : OutsideIs o (epyxSector k sum s) := by
  unfold epyxSector
  split
  · exact h
  · exact outsideIs_failWith _ h

theorem outsideIs_epyxOpen (k len : Nat) (h : outside s = o) : OutsideIs o (epyxOpen k len s) := by
  unfold epyxOpen
  split
  · trivial
  · exact h

theorem outsideIs_epyxName (k : Nat) (len : Byte) (i : Nat) (h : outside s = o) : OutsideIs o (epyxName k len i s) := by
  unfold epyxName
  split
  · exact outsideIs_epyxReceive _ h
  · split
    · exact h
    · exact outsideIs_epyxOpen k _ h

theorem outsideIs_epyxNameByte (k : Nat) (len : Byte) (i : Nat) (h : outside s = o) :
    OutsideIs o (epyxNameByte k len i s) := by
  unfold epyxNameByte
  split
  · exact outsideIs_andThen (outsideIs_bufWrite _ _ h) fun _ ht => outsideIs_epyxName k len _ ht
  · exact outsideIs_epyxName k len _ h

theorem outsideIs_epyxNameStart (k : Nat) (len : Byte) (h : outside s = o) : OutsideIs o (epyxNameStart k len s) :=
  outsideIs_flushThen _ (outsideIs_epyxName (s := dropCapture s) k len 0 h) h

theorem outsideIs_epyxLoadStep (k : Nat) (h : outside s = o) : OutsideIs o (epyxLoadStep k s) :=
  outsideIs_flushThen (f := epyxLoadClaimed k) _ h h

theorem outsideIs_epyxLoadRead (k : Nat) (h : outside s = o) : OutsideIs o (epyxLoadRead k s) :=
  outsideIs_andThen (outsideIs_bufFill 0 _ h) fun _ ht => outsideIs_epyxTransmit _ _ ht

theorem outsideIs_epyxLoadByte (k n i : Nat) (h : outside s = o) : OutsideIs o (epyxLoadByte k n i s) := by
  unfold epyxLoadByte
  split
  · split
    · trivial
    · exact outsideIs_epyxTransmit _ _ h
  · split <;> exact h

theorem outsideIs_epyxBeat (k i : Nat) (h : outside s = o) : OutsideIs o (epyxBeat k i s) := by
  unfold epyxBeat
  split
  · split
    · exact outsideIs_epyxReceive (s := setClk false s) _ h
    · exact h
  · exact outsideIs_failWith (s := s.clearFlag k .epyxSectorOp) _ h

/-- A free byte counts one draw of the environment, and no move of the feed. -/
theorem outsideIs_sectorSend (k i : Nat) (h : outside s = o) : OutsideIs o (sectorSend k i s) := by
  unfold sectorSend
  split
  · split
    · split
      · trivial
      · exact outsideIs_epyxTransmit _ _ h
    · exact outsideIs_epyxTransmit _ _ h
  · exact h

theorem outsideIs_sectorReadClaimed (k : Nat) (t sec : Byte) (h : outside s = o) :
    OutsideIs o (sectorReadClaimed k t sec s) := by
  unfold sectorReadClaimed
  dsimp only
  split
  · exact h
  · exact outsideIs_sectorSend (s := dropCapture s) k 0 h

theorem outsideIs_sectorWriteClaimed (k : Nat) (t sec : Byte) (h : outside s = o) :
    OutsideIs o (sectorWriteClaimed k t sec s) :=
  outsideIs_epyxReceive (s := dropCapture s) _ h

theorem outsideIs_sectorAct (k : Nat) (t sec c : Byte) (h : outside s = o) : OutsideIs o (sectorAct k t sec c s) := by
  unfold sectorAct
  split
  · exact outsideIs_flushThen _ (outsideIs_sectorReadClaimed k t sec h) h
  · exact outsideIs_flushThen _ (outsideIs_sectorWriteClaimed k t sec h) h
  · exact h

theorem outsideIs_sectorCommand (k : Nat) (t : Byte) (h : outside s = o) : OutsideIs o (sectorCommand k t s) := by
  unfold sectorCommand
  dsimp only
  split
  · exact outsideIs_epyxReceive _ h
  · exact outsideIs_sectorAct k t _ _ h

theorem outsideIs_sectorWriteByte (k : Nat) (t sec : Byte) (i : Nat) (h : outside s = o) :
    OutsideIs o (sectorWriteByte k t sec i s) := by
  refine outsideIs_andThen (outsideIs_bufWrite i _ h) fun u hu => ?_
  split
  · exact outsideIs_epyxReceive _ hu
  · split
    · split
      · trivial
      · exact hu
    · exact hu

theorem outsideIs_epyxPending (h : outside s = o) : OutsideIs o (epyxPending s) := by
  unfold epyxPending
  split
  · exact h
  · split
    · split <;> exact h
    · split
      · exact outsideIs_epyxLoadStep _ h
      · exact outsideIs_epyxBeat _ 0 h

theorem outsideIs_runEpyx (p : EpyxPos) (h : outside s = o) : OutsideIs o (runEpyx p s) := by
  cases p with
  | headerReady k => exact outsideIs_epyxReceive (s := setClk false s) _ h
  | headerByte k i sum => exact outsideIs_epyxHeaderByte k i sum h
  | rxBit i v lvl => exact outsideIs_epyxRxBit i v lvl h
  | txEdge v => exact h
  | txPair v t0 i => exact outsideIs_epyxTxPair v t0 i h
  | txClk t0 => exact h
  | txData => exact h
  | txTaken => exact (outside_unmaskIrq s).trans h
  | nameLen k => exact h
  | nameClaimed k len => exact outsideIs_epyxName (s := dropCapture s) k len 0 h
  | nameByte k len i => exact outsideIs_epyxNameByte k len i h
  | opened k => exact h
  | loadClaimed k => exact h
  | loadRead k => exact outsideIs_epyxLoadRead k h
  | loadByte k n i => exact outsideIs_epyxLoadByte k n i h
  | guarded k => exact h
  | abort k kind => exact h
  | closed => exact h
  | beat k i => exact outsideIs_epyxBeat k i h
  | beatLow k i => exact h
  | sectorTrack k => exact outsideIs_epyxReceive _ h
  | sectorSector k t => exact outsideIs_sectorCommand k t h
  | sectorCommand k t sec => exact outsideIs_sectorAct k t sec _ h
  | readClaimed k t sec => exact outsideIs_sectorReadClaimed k t sec h
  | readFilled k => exact outsideIs_andThen (outsideIs_bufFill 0 _ h) fun _ ht => outsideIs_sectorSend k 0 ht
  | readSend k i => exact outsideIs_sectorSend k i h
  | writeClaimed k t sec => exact outsideIs_sectorWriteClaimed k t sec h
  | writeByte k t sec i => exact outsideIs_sectorWriteByte k t sec i h

/-! ### The role actions -/

theorem outsideIs_listenFlushed (k : Nat) (sec : Byte) (h : outside s = o) : OutsideIs o (listenFlushed k sec s) := by
  unfold listenFlushed
  split
  · split <;> exact h
  · exact h

theorem outsideIs_doListen (k : Nat) (sec : Byte) (h : outside s = o) : OutsideIs o (doListen k sec s) :=
  outsideIs_flushBeforeCall k true sec _ (outsideIs_listenFlushed k sec h) h

theorem outsideIs_talkFree (k : Nat) (sec : Byte) (h : outside s = o) : OutsideIs o (talkFree k sec s) := by
  unfold talkFree
  dsimp only
  split <;> split <;> exact h

theorem outsideIs_talkFlushed (k : Nat) (sec : Byte) (h : outside s = o) : OutsideIs o (talkFlushed k sec s) := by
  unfold talkFlushed
  split
  · split
    · exact outsideIs_talkFree k sec h
    · exact h
  · exact outsideIs_talkFree k sec h

theorem outsideIs_doTalk (k : Nat) (sec : Byte) (h : outside s = o) : OutsideIs o (doTalk k sec s) :=
  outsideIs_flushBeforeCall k false sec _ (outsideIs_talkFlushed k sec h) h

theorem outsideIs_doUnlisten (h : outside s = o) : OutsideIs o (doUnlisten s) := by
  unfold doUnlisten
  split
  · exact h
  · split <;> exact h

theorem outsideIs_doUntalk (h : outside s = o) : OutsideIs o (doUntalk s) := by
  unfold doUntalk
  split <;> exact h

theorem outsideIs_riseRole (sec : Byte) (h : outside s = o) : OutsideIs o (riseRole sec s) := by
  unfold riseRole
  split
  · exact outsideIs_doListen _ sec h
  · exact outsideIs_doTalk _ sec h
  · exact outsideIs_doUnlisten h
  · exact outsideIs_doUntalk h
  · exact h
  · exact h
  · exact h

theorem outsideIs_runRole (p : RolePos) (h : outside s = o) : OutsideIs o (runRole p s) := by
  cases p with
  | listenFlushed k sec => exact outsideIs_listenFlushed k sec h
  | listenFree k sec => exact h
  | listenDone => exact h
  | talkFlushed k sec => exact outsideIs_talkFlushed k sec h
  | talkFree k sec => exact outsideIs_talkFree k sec h
  | talkCalled => exact h
  | reverse => exact h
  | unlisten k => exact h
  | unlistenDone => exact h
  | untalkDone => exact h

/-! ### The tick -/

theorem outsideIs_stepDolphin (h : outside s = o) : OutsideIs o (stepDolphin s) := by
  unfold stepDolphin
  split
  · exact outsideIs_dolphinPending h
  · exact h

theorem outsideIs_stepEpyx (h : outside s = o) : OutsideIs o (stepEpyx s) := by
  unfold stepEpyx
  split
  · exact outsideIs_epyxPending h
  · exact h

theorem outsideIs_receiveDispatch (h : outside s = o) : OutsideIs o (receiveDispatch s) := by
  unfold receiveDispatch
  split
  · split
    · exact outsideIs_iecReceive h
    · exact h
  · refine outsideIs_withCurrent fun k => ?_
    split
    · exact outsideIs_jiffyReceive k h
    · split
      · exact h
      · split
        · exact h
        · exact outsideIs_iecReceive h

theorem outsideIs_listenStep (h : outside s = o) : OutsideIs o (listenStep s) := by
  unfold listenStep
  split
  · split
    · exact outsideIs_withCurrent fun _ => (outside_override true s).trans h
    · exact outsideIs_receiveDispatch h
  · exact h

theorem outsideIs_listenAnswer (w : BitVec 8) (h : outside s = o) : OutsideIs o (listenAnswer w s) := by
  have released : outside (override false s) = o := (outside_override false s).trans h
  unfold listenAnswer
  split
  · exact h
  · dsimp only
    split
    · exact released
    · split
      · exact outsideIs_failWith _ released
      · exact outsideIs_receiveDispatch released

theorem outsideIs_talkStep (h : outside s = o) : OutsideIs o (talkStep s) := by
  unfold talkStep
  split
  · exact outsideIs_withCurrent fun _ => (outside_override true s).trans h
  · exact h

theorem outsideIs_transmitNow (k n : Nat) (h : outside s = o) : OutsideIs o (transmitNow k n s) := by
  unfold transmitNow
  split
  · exact outsideIs_jiffyBlockStep k n h
  · split
    · exact outsideIs_jiffyTransmit k n h
    · split
      · exact outsideIs_dolTransmit k n h
      · exact h

theorem outsideIs_transmitDispatch (k n : Nat) (h : outside s = o) : OutsideIs o (transmitDispatch k n s) := by
  unfold transmitDispatch
  dsimp only
  split
  · exact h
  · exact outsideIs_transmitNow k n h

theorem outsideIs_talkAnswer (k : Nat) (n : BitVec 8) (h : outside s = o) : OutsideIs o (talkAnswer k n s) := by
  have released : outside (override false s) = o := (outside_override false s).trans h
  unfold talkAnswer
  split
  · exact h
  · dsimp only
    split
    · exact released
    · exact outsideIs_transmitDispatch k _ released

theorem outsideIs_tickReturn (h : outside s = o) : OutsideIs o (tickReturn s) := by
  unfold tickReturn
  split
  · trivial
  · exact h

theorem outsideIs_tickFinish (h : outside s = o) : OutsideIs o (tickFinish s) := by
  unfold tickFinish
  split
  · trivial
  · dsimp only
    split
    · exact (outside_atnRequest _).trans h
    · exact h

theorem outsideIs_runTick (p : TickPos) (h : outside s = o) : OutsideIs o (runTick p s) := by
  cases p with
  | s1 => exact (outside_resetStep _).trans h
  | s2 => exact (outside_atnRequest _).trans h
  | s3 => exact outsideIs_stepDolphin (s := s.push _) h
  | s4 => exact outsideIs_stepEpyx (s := s.push _) h
  | s5 => exact outsideIs_listenStep (s := s.push _) h
  | s6 => exact outsideIs_talkStep (s := s.push _) h
  | s7 => exact (outside_atnRequest _).trans h
  | s8 => exact h
  | finish => exact outsideIs_tickFinish h
  | posted => exact outsideIs_tickReturn h
  | canWrite => exact (outside_atnRequest _).trans h
  | listen w => exact outsideIs_listenAnswer w h
  | canRead k => exact (outside_atnRequest _).trans h
  | talk k n => exact outsideIs_talkAnswer k n h
  | transmit k n => exact outsideIs_transmitNow k n h

theorem outsideIs_runBoot (p : BootPos) (h : outside s = o) : OutsideIs o (runBoot p s) := by
  cases p with
  | added d flags => exact (outside_addDevice d flags s).trans h
  | attach => exact h

/-! ### Every statement and every command -/

theorem outsideIs_pulseEnd (l : Line) (strict : Bool) (h : outside s = o) :
    OutsideIs o (runPos (.pulseEnd l strict) s) := by
  refine outsideIs_andThen (outsideIs_driveLine l false h) fun t ht => ?_
  split
  · exact outsideIs_settle _ ht
  · exact ht

theorem outsideIs_runPos (p : Pos) (h : outside s = o) : OutsideIs o (runPos p s) := by
  cases p with
  | decode site => exact h
  | yield y => exact h
  | boot p => exact outsideIs_runBoot p h
  | tick p => exact outsideIs_runTick p h
  | role p => exact outsideIs_runRole p h
  | rx p => exact outsideIs_runRx p h
  | tx p => exact outsideIs_runTx p h
  | jiffy p => exact outsideIs_runJiffy p h
  | dol p => exact outsideIs_runDol p h
  | epyx p => exact outsideIs_runEpyx p h
  | pulseEnd l strict => exact outsideIs_pulseEnd l strict h
  | raise kind => exact outsideIs_failWith kind h

/-- A command that is captured under ATN and acts at the rise keeps the outside if both its parts do. -/
theorem outsideIs_underAtn_or_rise {r r' : Res} (hr : OutsideIs o r) (hr' : OutsideIs o r') :
    OutsideIs o (if s.fl.atnActive then r else r') := by
  split
  · exact hr
  · exact hr'

theorem outsideIs_atSite {f : Nat → State → Res} (hf : ∀ k, OutsideIs o (f k s.pop)) :
    OutsideIs o (atSite s f) := by
  unfold atSite
  split
  · exact hf _
  · trivial

theorem outsideIs_atSite_next {g : Nat → State → State} (hg : ∀ k t, outside (g k t) = outside t)
    (h : outside s = o) : OutsideIs o (atSite s fun k t => .next (g k t)) :=
  outsideIs_atSite fun k => (hg k s.pop).trans h

theorem outsideIs_execListen (addr : BitVec 5) (h : outside s = o) : OutsideIs o (execListen addr s) := by
  refine outsideIs_underAtn_or_rise (outsideIs_captureAddress (s := s.pop) _ addr h) ?_
  split
  · exact outsideIs_doListen (s := s.pop) _ _ h
  · exact h

theorem outsideIs_execTalk (addr : BitVec 5) (h : outside s = o) : OutsideIs o (execTalk addr s) := by
  refine outsideIs_underAtn_or_rise (outsideIs_captureAddress (s := s.pop) _ addr h) ?_
  split
  · exact outsideIs_doTalk (s := s.pop) _ _ h
  · exact h

/-- Every secondary but 0xEF is captured under ATN and given to the role at the rise. -/
theorem outsideIs_secondary (b : Byte) (h : outside s = o) :
    OutsideIs o (if s.fl.atnActive then captureSecondary b s.pop else riseRole b s.pop) :=
  outsideIs_underAtn_or_rise (outsideIs_captureSecondary (s := s.pop) b h) (outsideIs_riseRole (s := s.pop) b h)

theorem outsideIs_execClose15Ignored (h : outside s = o) : OutsideIs o (execClose15Ignored s) := by
  refine outsideIs_underAtn_or_rise (outsideIs_captureSecondary (s := s.pop) _ h) ?_
  split
  · exact h
  · exact outsideIs_riseRole (s := s.pop) _ h

theorem outsideIs_exec (i : Instr) (h : outside s = o) : OutsideIs o (exec i s) := by
  cases i with
  | nullPrimary => exact outsideIs_underAtn_or_rise (outsideIs_rxAck (s := s.pop) _ _ _ h) h
  | unlisten =>
    exact outsideIs_underAtn_or_rise (outsideIs_rxAck (s := setPrimary 0x3F s.pop) _ _ _ h)
      (outsideIs_doUnlisten (s := s.pop) h)
  | untalk =>
    exact outsideIs_underAtn_or_rise (outsideIs_rxAck (s := setPrimary 0x5F s.pop) _ _ _ h)
      (outsideIs_doUntalk (s := s.pop) h)
  | listen addr => exact outsideIs_execListen addr h
  | talk addr => exact outsideIs_execTalk addr h
  | reservedPrimaryLow low => exact outsideIs_underAtn_or_rise h h
  | reservedPrimary60 low => exact outsideIs_underAtn_or_rise h h
  | reservedPrimary80 low => exact outsideIs_underAtn_or_rise h h
  | close15Ignored => exact outsideIs_execClose15Ignored h
  | dataCh chan => exact outsideIs_secondary _ h
  | closeCh chan => exact outsideIs_secondary _ h
  | openCh chan => exact outsideIs_secondary _ h
  | reservedSecondary03 grp chan => exact outsideIs_secondary _ h
  | reservedSecondary45 grp chan => exact outsideIs_secondary _ h
  | reservedSecondary7 chan => exact outsideIs_secondary _ h
  | reservedSecondary8B grp chan => exact outsideIs_secondary _ h
  | reservedSecondaryCD grp chan => exact outsideIs_secondary _ h
  | xq => exact outsideIs_atSite_next (fun k t => (outside_epyxReset _).trans (outside_dolphinRequest k .tx t)) h
  | xz => exact outsideIs_atSite_next (fun k t => (outside_epyxReset _).trans (outside_dolphinRequest k .rx t)) h
  | xfPlus => exact outsideIs_atSite_next (fun k t => (outside_epyxReset _).trans (outside_burstEnable k true t)) h
  | xfMinus => exact outsideIs_atSite_next (fun k t => (outside_epyxReset _).trans (outside_burstEnable k false t)) h
  | memWrite addr len payload => exact outsideIs_atSite_next (fun k t => outside_epyxMw k addr len payload t) h
  | memExecute addr => exact outsideIs_atSite_next (fun k t => outside_epyxMe k addr t) h
  | epyxLoadV1 => exact outsideIs_atSite fun k => outsideIs_epyxReceive _ h
  | epyxLoadV2 => exact outsideIs_atSite fun k => outsideIs_epyxReceive _ h
  | epyxLoadV3 => exact outsideIs_atSite fun k => outsideIs_epyxReceive _ h
  | epyxSector0B => exact outsideIs_atSite fun k => outsideIs_epyxSector k _ h
  | epyxSectorB8 => exact outsideIs_atSite fun k => outsideIs_epyxSector k _ h
  | epyxSectorBA => exact outsideIs_atSite fun k => outsideIs_epyxSector k _ h
  | epyxUnknownSum sum => exact outsideIs_atSite fun k => outsideIs_failWith _ h
  | epyxHdr len => exact outsideIs_atSite fun k => outsideIs_epyxNameStart k len h

/-- All that a step can do away from a yield point: run a command, pass over a channel-15 string that is none, fault on
its bytes, or run a statement after stepping past it. -/
theorem step_cases_of_not_atYield (h : ¬ AtYield s) :
    (∃ i, step s = exec i s) ∨ step s = .next (epyxReset s.pop) ∨ (∃ e, step s = .fault e) ∨
      ∃ p rest, s.seq = p :: rest ∧ step s = runPos p { s with seq := rest } := by
  cases hseq : s.seq with
  | nil => exact absurd (.inl hseq) h
  | cons p rest =>
    cases p with
    | decode site =>
      simp only [step, hseq]
      cases fetch site s with
      | command i => exact .inl ⟨i, rfl⟩
      | noCommand => exact .inr (.inl rfl)
      | fault e => exact .inr (.inr (.inl ⟨e, rfl⟩))
    | yield y => exact absurd (.inr ⟨y, rest, hseq⟩) h
    | _ => exact .inr (.inr (.inr ⟨_, rest, rfl, by simp only [step, advance, hseq]⟩))

theorem outsideIs_step (h : ¬ AtYield s) : OutsideIs (outside s) (step s) := by
  obtain ⟨i, hstep⟩ | hstep | ⟨e, hstep⟩ | ⟨p, rest, -, hstep⟩ := step_cases_of_not_atYield h
  · rw [hstep]
    exact outsideIs_exec i rfl
  · rw [hstep]
    exact outside_epyxReset s.pop
  · rw [hstep]
    trivial
  · rw [hstep]
    exact outsideIs_runPos (s := { s with seq := rest }) p rfl

/-- Settles O9: the outside goes unchanged through every statement and every command, by what stands at the
sequencer's head. -/
theorem engineStatementsLeaveTheOutsideAlone : Obligations.EngineStatementsLeaveTheOutsideAlone := by
  intro s t hyield hstep
  have kept := outsideIs_step hyield
  rw [hstep] at kept
  exact outside_eq_iff.1 kept

/-! ## One iteration of a line wait (40_timing R408, 60_exceptions R1010) -/

/-- At a yield point an engine move that comes next in the feed is taken from it and made. -/
theorem step_engineMove {y : Yield} {rest : List Pos} {a : Answer} {more : List Move}
    (hseq : s.seq = .yield y :: rest) (hfeed : s.env.feed = .engine a :: more) :
    step s = engineMove y a { s with env := { s.env with feed := more } } := by
  simp only [step, advance, hseq, yieldMove, nextMove, takeMove, hfeed, runMove]

/-- The three tests of `wait_for`, in their order; each that holds ends the wait with its result. -/
theorem pollLine_eq (a : Answer) (l : Line) (lvl : Level) (t : Nat) (start : Micros) (strict : Bool) (s : State) :
    pollLine a l lvl t start strict s =
      if atnMismatch s = true then finishWait strict .atnAbort s.pop
      else if readLine s l = lvl then finishWait strict .reached s.pop
      else if t ≠ 0 ∧ timeUp s.cfg a (elapsed s start) (2 * t) = true then finishWait strict .timeout s.pop
      else .next s := by
  simp only [pollLine, pollWith, beq_iff_eq, bne_iff_ne, Bool.and_eq_true]

/-- Taking a move from the feed changes nothing that the tests of a wait read. -/
theorem step_waitFor {rest : List Pos} {l : Line} {lvl : Level} {t : Nat} {start : Micros} {strict : Bool} {a : Answer}
    {more : List Move} (hseq : s.seq = .yield (.waitFor l lvl t start strict) :: rest)
    (hfeed : s.env.feed = .engine a :: more) :
    step s =
      if atnMismatch s = true then
        finishWait strict .atnAbort { s with seq := rest, env := { s.env with feed := more } }
      else if readLine s l = lvl then
        finishWait strict .reached { s with seq := rest, env := { s.env with feed := more } }
      else if t ≠ 0 ∧ timeUp s.cfg a (elapsed s start) (2 * t) = true then
        finishWait strict .timeout { s with seq := rest, env := { s.env with feed := more } }
      else .next { s with env := { s.env with feed := more } } := by
  have hpop : State.pop { s with env := { s.env with feed := more } } =
      { s with seq := rest, env := { s.env with feed := more } } := by simp only [State.pop, hseq, List.tail_cons]
  have hlow : lineLow { s with env := { s.env with feed := more } } = lineLow s := by
    funext l
    cases l <;> rfl
  have hread : readLine { s with env := { s.env with feed := more } } l = readLine s l := by
    simp only [readLine, hlow]
  rw [step_engineMove hseq hfeed, engineMove, pollLine_eq, hpop, hread]
  rfl

/-- A strict wait goes on when the level is reached, and fails otherwise (00_scope R9). -/
theorem finishWait_strict (r : WaitResult) (s : State) : finishWait true r s = settle r s := rfl

/-- A wait that is not strict leaves its result for the next statement. -/
theorem finishWait_lax (r : WaitResult) (s : State) :
    finishWait false r s = .next { s with work := { s.work with wait := r } } := rfl

/-- Settles O14: the order of the tests is `step_waitFor`, and what a result does is `finishWait`'s. -/
theorem waitTestsAtnThenLevelThenTimeout : Obligations.WaitTestsAtnThenLevelThenTimeout := by
  intro s rest l lvl t start a more hfeed
  constructor
  · intro hseq
    rw [step_waitFor hseq hfeed]
    simp only [finishWait_strict, settle]
  · intro hseq
    rw [step_waitFor hseq hfeed]
    simp only [finishWait_lax, apply_ite (Host.Outcome.next (σ := State) (φ := Fault) (ρ := Refusal))]

end Sys2Proof.Machine

/-! # Proofs for 10_state: the reset state, the decode points, and the DolphinDOS pre-buffer -/

namespace Sys2Proof.Machine

/-! ## The state after reset (10_state R170) -/

theorem tableOk_reset : tableOk State.reset := by
  refine ⟨Nat.le_add_left 1 _, by decide, fun e he => ?_⟩
  obtain rfl := List.mem_singleton.1 he
  decide

theorem buffersOk_reset : buffersOk State.reset :=
  ⟨reset_memory_wf.1, rfl, reset_memory_wf.2, rfl, Nat.zero_le _, rfl⟩

theorem wiringOk_reset : wiringOk State.reset := by
  refine ⟨fun _ => rfl, fun _ => ⟨rfl, rfl⟩, fun _ => rfl, fun _ => rfl⟩

theorem countersOk_reset : countersOk State.reset := by
  refine ⟨⟨Nat.zero_le _, Nat.zero_le _⟩, iff_of_true rfl rfl, ?_⟩
  decide

/-- Settles O6: each part of the invariant at the reset state. -/
theorem invariantHoldsAfterReset : Obligations.InvariantHoldsAfterReset :=
  ⟨tableOk_reset, buffersOk_reset, wiringOk_reset, countersOk_reset⟩

/-- Nothing is listed in an empty buffer, so no index reads. -/
theorem bufRead_of_empty {s : State} (h : s.buf = []) (i : Nat) :
    bufRead s i = .error .unwritten ∨ bufRead s i = .error .bufIndex := by
  rw [bufRead, memRead, h]
  split
  · exact .inl rfl
  · exact .inr rfl

theorem flags_of_mem_reset_dev {e : Entry} (he : e ∈ State.reset.dev) :
    e.valid = true ∧ e.flags &&& transientMask = 0 ∧ e.flags &&& persistentMask = e.configured := by
  obtain rfl := List.mem_singleton.1 he
  decide

/-- Settles O10: `State.reset` is construction with one entry and one registry slot, and its `buf` is empty. -/
theorem resetLeavesTheConstructionValues : Obligations.ResetLeavesTheConstructionValues :=
  ⟨rfl, rfl, rfl, rfl, rfl, rfl, rfl, rfl, rfl, rfl, rfl, rfl, rfl, rfl, fun _ he => flags_of_mem_reset_dev he,
    ⟨⟨0, 0⟩, List.mem_singleton.2 rfl, rfl⟩, bufRead_of_empty rfl⟩

/-! ## The decode points (10_state R105) -/

theorem step_of_fetch_command {s : State} {site : Site} {rest : List Pos} {i : Instr}
    (hseq : s.seq = .decode site :: rest) (hi : fetch site s = .command i) : step s = exec i s := by
  simp only [step, hseq, hi]

theorem fetch_rise_secondary {s : State} (h : s.addr.secValid = true) :
    fetch .rise s = .command (decodeSecondary s.addr.secondary) := if_pos h

theorem fetch_rise_primary {s : State} (h : s.addr.secValid = false) :
    fetch .rise s = .command (decodePrimary s.addr.primary) := by simp [fetch, h]

theorem fetch_cmd15 {s : State} {bytes : List Byte} {i : Instr} (k : Nat) (ho : s.cmd.overflow = false)
    (hb : cmdBytes s = .ok bytes) (hi : decodeCmd15 bytes = .ok i) : fetch (.cmd15 k) s = .command i := by
  simp [fetch, ho, hb, hi]

/-- Settles O4: `fetch` reads at each decode point what its format decodes there. -/
theorem stepRunsTheDecodedCommand : Obligations.StepRunsTheDecodedCommand := by
  intro s rest i
  refine ⟨fun rx hseq hi => ?_, fun rx hseq hi => ?_, fun hseq hv hi => ?_, fun hseq hv hi => ?_,
    fun k bytes hseq ho hb hi => ?_, fun k sum hseq hi => ?_, fun k len hseq hi => ?_⟩
  case refine_5 => exact step_of_fetch_command hseq (fetch_cmd15 k ho hb hi)
  all_goals obtain rfl := Except.ok.inj hi
  · exact step_of_fetch_command hseq rfl
  · exact step_of_fetch_command hseq rfl
  · exact step_of_fetch_command hseq (fetch_rise_secondary hv)
  · exact step_of_fetch_command hseq (fetch_rise_primary hv)
  · exact step_of_fetch_command hseq rfl
  · exact step_of_fetch_command hseq rfl

/-! ## The DolphinDOS pre-buffer (10_state R150, 43_dolphindos R704) -/

/-- The registers after a byte of a SAVE is held: it takes index `preN`. -/
def heldDol (k : Nat) (eoi : Bool) (s : State) : DolRegs :=
  { s.dol with
    capN := if s.dol.preN = 0 then 0 else s.dol.capN
    preN := s.dol.preN + 1
    preDev := k
    preEoi := eoi
    preArm := !(s.dol.preN + 1 == s.cfg.prebufferBytes || eoi) }

theorem heldDol_preArm_eq_false {k : Nat} {eoi : Bool} {s : State} :
    (heldDol k eoi s).preArm = false ↔ s.dol.preN + 1 = s.cfg.prebufferBytes ∨ eoi = true := by
  simp [heldDol, or_iff_not_imp_left]

/-- An armed pre-buffer with room holds the byte. -/
theorem dolHold_room {s : State} {k : Nat} (b : Byte) (eoi : Bool) (other : State → Res)
    (harm : s.dol.preArm = true) (hl : s.sel.listener = some k) (hsec : s.sel.listenerSec = 0x61)
    (hpre : s.dol.preN < s.cfg.prebufferBytes) (hbuf : s.dol.preN < s.cfg.bufSize) :
    dolHold k b eoi other s = .next { s with buf := memSet s.buf s.dol.preN b, dol := heldDol k eoi s } := by
  rw [dolHold, if_pos ⟨harm, hl, hsec, hpre⟩, bufWrite_eq b hbuf]
  rfl

/-- A pre-buffer at its bound holds nothing more (assumption log 18). -/
theorem dolHold_full {s : State} (k : Nat) (b : Byte) (eoi : Bool) (other : State → Res)
    (h : s.cfg.prebufferBytes ≤ s.dol.preN) : dolHold k b eoi other s = other s :=
  if_neg fun hc => Nat.not_lt.2 h hc.2.2.2

/-- A byte of a SAVE is delivered after the bytes held for its device (43_dolphindos R705). -/
theorem deliver_after_held {s : State} {k : Nat} (b : Byte) (eoi : Bool) (hn : 0 < s.dol.preN) (hdev : s.dol.preDev = k)
    (hl : s.sel.listener = some k) (hsec : s.sel.listenerSec = 0x61) :
    deliver k b eoi s = dolFlush [.yield (.call (.write k b eoi))] s := by
  have hno : ¬ s.sel.listenerSec = 0x6F := by rw [hsec]; decide
  simp only [deliver, if_neg hno]
  exact if_pos ⟨hn, hdev, hl, hsec⟩

/-- Settles O55: below the bound `dolHold` stores the byte at index `preN`, at the bound the byte goes to `deliver`. -/
theorem firstSaveBytesAreHeld : Obligations.FirstSaveBytesAreHeld := by
  intro s k eoi rest hseq harm hl hsec
  have hstep : step s = dolHold k (parRead s) eoi (deliver k (parRead s) eoi)
      { s with drv := { s.drv with data := true }, seq := rest } := by
    simp only [step, advance, hseq]
    rfl
  constructor
  · intro hpre hbuf
    refine ⟨_, hstep.trans (dolHold_room _ _ _ harm hl hsec hpre hbuf), rfl, rfl, rfl, rfl, rfl,
      heldDol_preArm_eq_false, rfl, fun a => ?_, rfl⟩
    exact memGet_memSet _ _ _ _
  · intro hfull hn hdev
    rw [hstep]
    refine (dolHold_full _ _ _ _ ?_).trans (deliver_after_held _ _ hn hdev hl hsec)
    exact hfull

end Sys2Proof.Machine

/-! # What a routine keeps, from what the shared operations keep

A routine of the engine changes the state only through the shared operations of 40_timing to 60_exceptions. So a
predicate that goes through each of these operations goes through every routine; it is proved here once for any such
predicate (`KeptByOperations`), and used below for `Inv` and for `RoleKept`. -/

namespace Sys2Proof.Machine

/-- The next state of an answer, if there is one, satisfies `P`. -/
def NextHas (P : State → Prop) (r : Res) : Prop :=
  match r with
  | .next t => P t
  | .fault _ => True
  | .refused _ => True

/-- `t` differs from `s` at most in what neither the ranges of `Inv` nor the rules on mode and selection speak of: the
sequencer, the working values, the talk timing, `done`, `in_tick`, CLK and DATA, the listener's and the talker's
registers, the DolphinDOS registers but the two counts, the routine sum, and the outside but for the attached ISR. -/
def OnlyUnwatched (s t : State) : Prop :=
  t = { s with
    seq := t.seq
    work := t.work
    talk := t.talk
    bus := { s.bus with done := t.bus.done }
    fl := { s.fl with inTick := t.fl.inTick }
    drv := { s.drv with clk := t.drv.clk, data := t.drv.data }
    sel := { t.sel with current := s.sel.current }
    dol := { t.dol with preN := s.dol.preN, capN := s.dol.capN }
    epyx := { s.epyx with sum := t.epyx.sum }
    env := { t.env with attached := s.env.attached } }

/-- `P` goes through every shared operation. -/
structure KeptByOperations (P : State → Prop) : Prop where
  unwatched {s t : State} : P s → OnlyUnwatched s t → P t
  lowerCounts {s : State} {d : DolRegs} : d.preN ≤ s.dol.preN → d.capN ≤ s.dol.capN → P s → P { s with dol := d }
  newCommand {s : State} : P s → P { s with cmd := { s.cmd with len := 0, overflow := false } }
  driveLine {s : State} {l : Line} {on : Bool} : P s → NextHas P (driveLine l on s)
  override {s : State} {on : Bool} : P s → P (override on s)
  parOutput {s : State} {b : Byte} : P s → P (parOutput b s)
  parInput {s : State} : P s → P (parInput s)
  setFlag {s : State} {k : Nat} {f : ProtoFlag} : P s → P (s.setFlag k f)
  clearFlag {s : State} {k : Nat} {f : ProtoFlag} : P s → P (s.clearFlag k f)
  maskIrq {s : State} : P s → NextHas P (maskIrq s)
  unmaskIrq {s : State} : P s → P (unmaskIrq s)
  atnIsr {s : State} : s.env.attached = true → P s → P (atnIsr s)
  failWith {s : State} {kind : ErrKind} : P s → NextHas P (failWith kind s)
  finishWait {s : State} {strict : Bool} {r : WaitResult} : P s → NextHas P (finishWait strict r s)
  bufWrite {s : State} {i : Nat} {b : Byte} : P s → NextHas P (bufWrite i b s)
  bufFill {s : State} {i : Nat} {bs : List Byte} : P s → NextHas P (bufFill i bs s)
  dolHold {s : State} {k : Nat} {b : Byte} {eoi : Bool} {f : State → Res} :
    (∀ t, P t → NextHas P (f t)) → P s → NextHas P (dolHold k b eoi f s)
  dolCapture {s : State} {b : Byte} : P s → NextHas P (dolCapture b s)
  deliver {s : State} {k : Nat} {b : Byte} {eoi : Bool} : P s → NextHas P (deliver k b eoi s)
  flushThen {s : State} {p : Pos} {f : State → Res} :
    (∀ t, P t → NextHas P (f t)) → P s → NextHas P (flushThen p f s)
  flushBeforeCall {s : State} {k : Nat} {isListen : Bool} {sec : Byte} {p : Pos} {f : State → Res} :
    (∀ t, P t → NextHas P (f t)) → P s → NextHas P (flushBeforeCall k isListen sec p f s)
  epyxReset {s : State} : P s → P (epyxReset s)
  epyxMw {s : State} {k : Nat} {addr : BitVec 16} {len : Byte} {bs : List Byte} : P s → P (epyxMw k addr len bs s)
  epyxMe {s : State} {k : Nat} {addr : BitVec 16} : P s → P (epyxMe k addr s)

/-! ## The two predicates that the statements are about -/

/-- The invariant goes through every shared operation: the lemmas of Laws/Invariant. -/
theorem keptByOperations_inv : KeptByOperations Inv where
  unwatched h e := by rw [e]; exact h
  lowerCounts hp hc h := inv_dol _ (hp.trans h.2.2.2.1.1) (hc.trans h.2.2.2.1.2) h
  newCommand h := by
    obtain ⟨ht, ⟨hb, hb', hw, hl, -, -⟩, hrest⟩ := h
    exact ⟨ht, ⟨hb, hb', hw, hl, Nat.zero_le _, rfl⟩, hrest⟩
  driveLine h := inv_driveLine _ _ h
  override h := inv_override _ h
  parOutput h := inv_parOutput _ h
  parInput h := inv_parInput h
  setFlag h := inv_setFlag _ _ h
  clearFlag h := inv_clearFlag _ _ h
  maskIrq h := inv_maskIrq h
  unmaskIrq h := inv_unmaskIrq h
  atnIsr ha h := inv_atnIsr (.inl (h.2.2.1.2.2.1 ha)) h
  failWith h := inv_failWith _ h
  finishWait h := inv_finishWait _ _ h
  bufWrite h := inv_bufWrite _ _ h
  bufFill h := inv_bufFill _ _ h
  dolHold hf h := inv_dolHold _ _ _ hf h
  dolCapture h := inv_dolCapture _ h
  deliver h := inv_deliver _ _ _ h
  flushThen hf h := inv_flushThen _ hf h
  flushBeforeCall hf h := inv_flushBeforeCall _ _ _ _ hf h
  epyxReset h := inv_epyxReset h
  epyxMw h := inv_epyxMw _ _ _ _ h
  epyxMe h := inv_epyxMe _ _ h

/-- Addressing, selection, mode and `atn_active` since `s₀` go through every shared operation: the lemmas of
Laws/Mode. -/
theorem keptByOperations_roleKept (s₀ : State) : KeptByOperations (RoleKept s₀) where
  unwatched h e := by rw [e]; exact h
  lowerCounts _ _ h := h
  newCommand h := h
  driveLine h := kept_driveLine _ _ h
  override h := kept_override _ h
  parOutput h := kept_parOutput _ h
  parInput h := kept_parInput h
  setFlag h := kept_setFlag _ _ h
  clearFlag h := kept_clearFlag _ _ h
  maskIrq h := kept_maskIrq h
  unmaskIrq h := kept_unmaskIrq h
  atnIsr _ h := kept_atnIsr h
  failWith h := kept_failWith _ h
  finishWait h := kept_finishWait _ _ h
  bufWrite h := kept_bufWrite _ _ h
  bufFill h := kept_bufFill _ _ h
  dolHold hf h := kept_dolHold _ _ _ hf h
  dolCapture h := kept_dolCapture _ h
  deliver h := kept_deliver _ _ _ h
  flushThen hf h := kept_flushThen _ hf h
  flushBeforeCall hf h := kept_flushBeforeCall _ _ _ _ hf h
  epyxReset h := kept_epyxReset h
  epyxMw h := kept_epyxMw _ _ _ _ h
  epyxMe h := kept_epyxMe _ _ h

end Sys2Proof.Machine

namespace Sys2Proof.Machine

variable {P : State → Prop} {s : State}

theorem nextHas_andThen {r : Res} {f : State → Res} (hr : NextHas P r) (hf : ∀ t, P t → NextHas P (f t)) :
    NextHas P (andThen r f) := by
  cases r with
  | next t => exact hf t hr
  | fault e => trivial
  | refused e => trivial

theorem nextHas_withCurrent {f : Nat → Res} (hf : ∀ k, NextHas P (f k)) : NextHas P (withCurrent s f) := by
  unfold withCurrent
  split
  · exact hf _
  · trivial

theorem nextHas_atSite {f : Nat → State → Res} (hf : ∀ k, NextHas P (f k s.pop)) : NextHas P (atSite s f) := by
  unfold atSite
  split
  · exact hf _
  · trivial

theorem nextHas_atSite_next {g : Nat → State → State} (hg : ∀ k, P (g k s.pop)) :
    NextHas P (atSite s fun k t => .next (g k t)) := nextHas_atSite hg

theorem holds_ite {c : Prop} [Decidable c] {t u : State} (ht : P t) (hu : P u) : P (if c then t else u) := by
  split
  · exact ht
  · exact hu

section Routines

variable (hP : KeptByOperations P)

include hP

theorem holds_setClk (on : Bool) (h : P s) : P (setClk on s) := hP.unwatched h rfl

theorem holds_setData (on : Bool) (h : P s) : P (setData on s) := hP.unwatched h rfl

theorem holds_dropCapture (h : P s) : P (dropCapture s) := hP.lowerCounts le_rfl (Nat.zero_le _) h

theorem nextHas_masked {f : State → Res} (hf : ∀ t, P t → NextHas P (f t)) (h : P s) :
    NextHas P (andThen (maskIrq s) f) := nextHas_andThen (hP.maskIrq h) hf

theorem nextHas_pulseLow (l : Line) (t : Nat) (strict : Bool) (ps : List Pos) (h : P s) :
    NextHas P (pulseLow l t strict ps s) := nextHas_andThen (hP.driveLine h) fun _ hu => hP.unwatched hu rfl

/-! ## The DolphinDOS engine -/

theorem nextHas_probeIfArmed (k : Option Nat) (h : P s) : NextHas P (probeIfArmed k s) := by
  unfold probeIfArmed
  split
  · split
    · exact hP.unwatched h rfl
    · exact h
  · exact h

theorem nextHas_probeEnd (k : Nat) (h : P s) : NextHas P (probeEnd k s) := by
  unfold probeEnd
  split
  · exact h
  all_goals exact nextHas_pulseLow hP _ _ _ _ (hP.setFlag h)

theorem nextHas_dolRxEdge (k : Nat) (h : P s) : NextHas P (dolRxEdge k s) := by
  unfold dolRxEdge
  split
  · exact hP.failWith h
  · exact nextHas_pulseLow hP _ _ _ _ h
  · exact hP.unwatched h rfl

theorem nextHas_dolTransmit (k n : Nat) (h : P s) : NextHas P (dolTransmit k n s) := by
  unfold dolTransmit
  split
  · exact hP.unwatched h rfl
  · exact nextHas_masked hP (fun _ hu => hP.unwatched hu rfl) h

theorem nextHas_dolTxReady (k n : Nat) (b : Byte) (h : P s) : NextHas P (dolTxReady k n b s) := by
  unfold dolTxReady
  split <;> exact hP.unwatched h rfl

theorem nextHas_dolTxValid (k : Nat) (b : Byte) (h : P s) : NextHas P (dolTxValid k b s) :=
  hP.unwatched (hP.unmaskIrq (holds_setClk hP true (hP.parOutput (b := b) h))) rfl

theorem nextHas_dolTxAcked (h : P s) : NextHas P (dolTxAcked s) := by
  unfold dolTxAcked
  dsimp only
  split
  · exact hP.failWith (hP.parInput h)
  · exact hP.failWith (hP.parInput h)
  · exact hP.unwatched (hP.parInput h) rfl

theorem holds_dolphinRequest (k : Nat) (dir : BurstDir) (h : P s) : P (dolphinRequest k dir s) := by
  unfold dolphinRequest
  split
  · cases dir with
    | tx => exact hP.unwatched (hP.setFlag h) rfl
    | rx => exact hP.lowerCounts (Nat.zero_le _) le_rfl (hP.setFlag h)
  · exact h

theorem holds_burstEnable (k : Nat) (on : Bool) (h : P s) : P (burstEnable k on s) := by
  unfold burstEnable
  split
  · split
    · exact hP.setFlag h
    · exact hP.clearFlag h
  · exact h

theorem nextHas_dolphinPending (h : P s) : NextHas P (dolphinPending s) := by
  unfold dolphinPending
  split
  · exact h
  · next k _ =>
    have cleared : P ((s.clearFlag k .dolphinBurstTx).clearFlag k .dolphinBurstRx) := hP.clearFlag (hP.clearFlag h)
    dsimp only
    generalize (if s.flag k .dolphinBurstTx then BurstDir.tx else .rx) = dir
    split
    · exact h
    · split
      · exact h
      · cases dir <;> exact hP.unwatched cleared rfl

theorem nextHas_burstSend (b : Byte) (ps : List Pos) (h : P s) : NextHas P (burstSend b ps s) :=
  nextHas_masked hP (fun _ hu => nextHas_pulseLow hP _ _ _ _ (hP.parOutput hu)) h

theorem nextHas_burstHeld (k i : Nat) (h : P s) : NextHas P (burstHeld k i s) := by
  unfold burstHeld
  split
  · split
    · trivial
    · exact nextHas_burstSend hP _ _ h
  · exact hP.unwatched h rfl

theorem nextHas_burstCount (k : Nat) (h : P s) : NextHas P (burstCount k s) := by
  have idle : P (burstClk false s) := hP.unwatched h rfl
  unfold burstCount
  dsimp only
  split
  · exact hP.unwatched h rfl
  · split
    · exact hP.unwatched (hP.parInput idle) rfl
    · exact hP.unwatched h rfl

theorem nextHas_burstTake (k : Nat) (h : P s) : NextHas P (burstTake k s) := nextHas_pulseLow hP _ _ _ _ h

theorem nextHas_burstWait (k : Nat) (h : P s) : NextHas P (burstWait k s) :=
  nextHas_masked hP (fun _ hu => hP.unwatched hu rfl) h

theorem nextHas_runDol (p : DolPos) (h : P s) : NextHas P (runDol p s) := by
  cases p with
  | rxEdge k => exact nextHas_dolRxEdge hP k h
  | rxPulsed k => exact hP.unwatched h rfl
  | rxData k eoi => exact hP.dolHold (fun _ hu => hP.deliver hu) (hP.unwatched h rfl)
  | txEmpty => exact hP.failWith (kind := .deviceRefused) h
  | txPeeked k n => exact hP.unwatched h rfl
  | txReady k n b => exact nextHas_dolTxReady hP k n b h
  | txHigh k b => exact hP.unwatched h rfl
  | txValid k b => exact nextHas_dolTxValid hP k b h
  | txRead b => exact nextHas_andThen (hP.dolCapture h) fun _ hu => hP.unwatched hu rfl
  | txAcked => exact nextHas_dolTxAcked hP h
  | sendPulsed => exact hP.unwatched h rfl
  | sendTaken => exact hP.unmaskIrq h
  | burstTalk k => exact nextHas_burstHeld hP k 0 (hP.unwatched h rfl)
  | burstHeld k i => exact nextHas_burstHeld hP k i h
  | burstAsk k => exact hP.unwatched h rfl
  | burstCount k => exact nextHas_burstCount hP k h
  | burstByte k => exact nextHas_burstSend hP _ _ h
  | burstEnd => exact holds_dropCapture hP (holds_setClk hP false h)
  | burstListen k => exact nextHas_burstWait hP k (hP.parInput h)
  | burstTake k => exact nextHas_burstTake hP k h
  | burstTaken k b eoi => exact hP.unwatched (hP.unmaskIrq h) rfl
  | burstNext k eoi =>
    unfold runDol
    dsimp only
    split
    · exact hP.unwatched h rfl
    · exact nextHas_burstWait hP k h
  | releaseClk => exact h
  | returned =>
    unfold runDol
    dsimp only
    split
    · trivial
    · exact h

/-! ## The standard byte -/

theorem nextHas_iecReceive (h : P s) : NextHas P (iecReceive s) := by
  unfold iecReceive
  dsimp only
  split <;> exact hP.unwatched h rfl

theorem nextHas_rxEoiTest (h : P s) : NextHas P (rxEoiTest s) := by
  unfold rxEoiTest
  split
  · exact hP.failWith h
  · split
    · exact hP.unwatched h rfl
    · exact nextHas_pulseLow hP _ _ _ _ h
  · exact hP.unwatched h rfl

theorem nextHas_rxBit (i : Nat) (rx : Byte) (eoi : Bool) (h : P s) : NextHas P (rxBit i rx eoi s) := by
  unfold rxBit
  split <;> exact hP.unwatched h rfl

theorem nextHas_rxWindow (rx : Byte) (eoi : Bool) (h : P s) : NextHas P (rxWindow rx eoi s) := by
  unfold rxWindow
  dsimp only
  split
  · exact hP.failWith h
  · exact hP.unwatched h rfl
  · split
    · exact hP.unwatched h rfl
    · exact nextHas_pulseLow hP _ _ _ _ h

theorem nextHas_rxAck (rx : Byte) (eoi newSec : Bool) (h : P s) : NextHas P (rxAck rx eoi newSec s) := by
  have acknowledged := holds_setData hP true h
  unfold rxAck
  dsimp only
  split
  · exact nextHas_withCurrent fun _ => hP.deliver acknowledged
  · split
    · exact nextHas_probeIfArmed hP _ acknowledged
    · exact acknowledged

theorem nextHas_rxByte (rx : Byte) (eoi : Bool) (h : P s) : NextHas P (rxByte rx eoi s) := by
  unfold rxByte
  split
  · split
    · exact hP.unwatched h rfl
    · split
      · exact hP.unwatched h rfl
      · split
        · exact nextHas_rxAck hP rx eoi false h
        · exact h
  · exact nextHas_rxAck hP rx eoi false h

theorem nextHas_runRx (p : RxPos) (h : P s) : NextHas P (runRx p s) := by
  cases p with
  | clkFall => exact hP.unwatched h rfl
  | eoiTest => exact nextHas_rxEoiTest hP h
  | eoiPulsed => exact hP.unwatched h rfl
  | bit i rx eoi => exact nextHas_rxBit hP i rx eoi h
  | window rx eoi => exact nextHas_rxWindow hP rx eoi h
  | detected j rx eoi => exact hP.unwatched (hP.setFlag h) rfl
  | sample i rx eoi => exact hP.unwatched h rfl
  | byte rx eoi => exact nextHas_rxByte hP rx eoi h
  | ack rx eoi newSec => exact nextHas_rxAck hP rx eoi newSec h
  | probe k => exact nextHas_probeEnd hP k h

theorem nextHas_txSend (k n : Nat) (h : P s) : NextHas P (txSend k n s) := by
  unfold txSend
  split
  · exact hP.failWith h
  · exact hP.unwatched h rfl

theorem nextHas_txReady (k n : Nat) (verify : Bool) (h : P s) : NextHas P (txReady k n verify s) := by
  unfold txReady
  split
  · exact hP.unwatched h rfl
  · exact nextHas_txSend hP k n h

theorem nextHas_txNext (k : Nat) (b : Byte) (i : Nat) (h : P s) : NextHas P (txNext k b i s) := by
  unfold txNext
  split <;> exact hP.unwatched h rfl

theorem nextHas_runTx (p : TxPos) (h : P s) : NextHas P (runTx p s) := by
  cases p with
  | ready k n verify => exact nextHas_txReady hP k n verify h
  | high k n => exact hP.unwatched h rfl
  | send k n => exact nextHas_txSend hP k n h
  | peeked k => exact hP.unwatched h rfl
  | lowHeld k b i => exact hP.unwatched h rfl
  | highHeld k b i => exact nextHas_txNext hP k b i h
  | acked k => exact hP.unwatched h rfl
  | committed => exact hP.unwatched h rfl

/-! ## The JiffyDOS engine -/

theorem nextHas_jiffyReceive (k : Nat) (h : P s) : NextHas P (jiffyReceive k s) :=
  nextHas_masked hP (fun _ hu => hP.unwatched hu rfl) h

theorem nextHas_jiffyRxPair (k : Nat) (t0 : Micros) (i : Nat) (rx : Byte) (h : P s) :
    NextHas P (jiffyRxPair k t0 i rx s) := by
  unfold jiffyRxPair
  dsimp only
  split <;> exact hP.unwatched h rfl

theorem nextHas_jiffyTxStart (k : Nat) (st : TxStatus) (b : Byte) (h : P s) :
    NextHas P (jiffyTxStart k st b s) := nextHas_masked hP (fun _ hu => hP.unwatched hu rfl) h

theorem nextHas_jiffyTransmit (k n : Nat) (h : P s) : NextHas P (jiffyTransmit k n s) := by
  unfold jiffyTransmit
  dsimp only
  split
  · exact hP.unwatched h rfl
  · exact nextHas_jiffyTxStart hP k _ _ h

theorem nextHas_jiffyTxPair (k : Nat) (st : TxStatus) (b : Byte) (t0 : Micros) (i : Nat) (h : P s) :
    NextHas P (jiffyTxPair k st b t0 i s) := by
  unfold jiffyTxPair
  dsimp only
  split <;> exact hP.unwatched h rfl

theorem nextHas_jiffyTxAcked (k : Nat) (st : TxStatus) (h : P s) : NextHas P (jiffyTxAcked k st s) := by
  unfold jiffyTxAcked
  dsimp only
  split
  · exact hP.failWith (hP.unmaskIrq h)
  · exact hP.unwatched (hP.unmaskIrq h) rfl

theorem nextHas_jiffyEoiBlock (h : P s) : NextHas P (jiffyEoiBlock s) :=
  nextHas_masked hP (fun _ hu => hP.unwatched hu rfl) h

theorem nextHas_jiffyBlockByte (m j : Nat) (h : P s) : NextHas P (jiffyBlockByte m j s) :=
  nextHas_masked hP (fun _ hu => hP.unwatched hu rfl) h

theorem nextHas_jiffyBlockPair (m j : Nat) (t0 : Micros) (i : Nat) (h : P s) :
    NextHas P (jiffyBlockPair m j t0 i s) := by
  unfold jiffyBlockPair
  split
  · trivial
  · dsimp only
    split <;> exact hP.unwatched h rfl

theorem nextHas_jiffyBlockEnd (m j : Nat) (h : P s) : NextHas P (jiffyBlockEnd m j s) := by
  have unmasked := hP.unmaskIrq (holds_setData hP false h)
  unfold jiffyBlockEnd
  dsimp only
  split
  · exact nextHas_jiffyBlockByte hP m _ unmasked
  · exact hP.unwatched unmasked rfl

theorem nextHas_jiffyBlockClaimed (k n : Nat) (h : P s) : NextHas P (jiffyBlockClaimed k n s) := by
  unfold jiffyBlockClaimed
  dsimp only
  split
  · exact nextHas_jiffyEoiBlock hP (holds_dropCapture hP h)
  · exact hP.unwatched (holds_dropCapture hP h) rfl

theorem nextHas_jiffyBlockFilled (h : P s) : NextHas P (jiffyBlockFilled s) := by
  refine nextHas_andThen (hP.bufFill h) fun t ht => ?_
  split
  · exact nextHas_jiffyEoiBlock hP ht
  · exact nextHas_jiffyBlockByte hP _ 0 ht

theorem nextHas_runJiffy (p : JiffyPos) (h : P s) : NextHas P (runJiffy p s) := by
  cases p with
  | rxEdge k => exact hP.unwatched h rfl
  | rxPair k t0 i rx => exact nextHas_jiffyRxPair hP k t0 i rx h
  | rxEoi k t0 rx => exact hP.unwatched h rfl
  | rxDone k rx eoi => exact hP.deliver (hP.unmaskIrq h)
  | txPeeked k st => exact nextHas_jiffyTxStart hP k st _ h
  | txEdge k st b => exact hP.unwatched h rfl
  | txPair k st b t0 i => exact nextHas_jiffyTxPair hP k st b t0 i h
  | txStatus k st => exact hP.unwatched h rfl
  | txHeld k st => exact hP.unwatched h rfl
  | txAcked k st => exact nextHas_jiffyTxAcked hP k st h
  | claimed k n => exact nextHas_jiffyBlockClaimed hP k n h
  | filled => exact nextHas_jiffyBlockFilled hP h
  | blockHigh m j => exact hP.unwatched h rfl
  | blockEdge m j => exact hP.unwatched h rfl
  | blockPair m j t0 i => exact nextHas_jiffyBlockPair hP m j t0 i h
  | blockEnd m j => exact nextHas_jiffyBlockEnd hP m j h
  | eoiHeld => exact hP.unwatched (hP.unmaskIrq (holds_setClk hP true h)) rfl

/-! ## The Epyx engine -/

theorem nextHas_epyxReceive (ps : List Pos) (h : P s) : NextHas P (epyxReceive ps s) :=
  nextHas_masked hP (fun _ hu => hP.unwatched hu rfl) h

theorem nextHas_epyxRxBit (i : Nat) (v : Byte) (lvl : Level) (h : P s) : NextHas P (epyxRxBit i v lvl s) := by
  unfold epyxRxBit
  dsimp only
  split
  · exact hP.unwatched h rfl
  · exact hP.unwatched (hP.unmaskIrq h) rfl

theorem nextHas_epyxTransmit (b : Byte) (ps : List Pos) (h : P s) : NextHas P (epyxTransmit b ps s) :=
  nextHas_masked hP (fun _ hu => hP.unwatched hu rfl) h

theorem nextHas_epyxTxPair (v : Byte) (t0 : Micros) (i : Nat) (h : P s) : NextHas P (epyxTxPair v t0 i s) := by
  unfold epyxTxPair
  dsimp only
  split <;> exact hP.unwatched h rfl

theorem nextHas_epyxHeaderByte (k i : Nat) (sum : Byte) (h : P s) : NextHas P (epyxHeaderByte k i sum s) := by
  unfold epyxHeaderByte
  dsimp only
  split
  · exact nextHas_epyxReceive hP _ h
  · exact hP.unwatched h rfl

theorem nextHas_epyxSector (k : Nat) (sum : Byte) (h : P s) : NextHas P (epyxSector k sum s) := by
  unfold epyxSector
  split
  · exact hP.setFlag (hP.unwatched h rfl)
  · exact hP.failWith h

theorem nextHas_epyxOpen (k len : Nat) (h : P s) : NextHas P (epyxOpen k len s) := by
  unfold epyxOpen
  split
  · trivial
  · exact hP.unwatched h rfl

theorem nextHas_epyxName (k : Nat) (len : Byte) (i : Nat) (h : P s) : NextHas P (epyxName k len i s) := by
  unfold epyxName
  split
  · exact nextHas_epyxReceive hP _ h
  · split
    · exact hP.unwatched h rfl
    · exact nextHas_epyxOpen hP k _ h

theorem nextHas_epyxNameByte (k : Nat) (len : Byte) (i : Nat) (h : P s) : NextHas P (epyxNameByte k len i s) := by
  unfold epyxNameByte
  split
  · exact nextHas_andThen (hP.bufWrite h) fun _ hu => nextHas_epyxName hP k len _ hu
  · exact nextHas_epyxName hP k len _ h

theorem nextHas_epyxNameStart (k : Nat) (len : Byte) (h : P s) : NextHas P (epyxNameStart k len s) :=
  hP.flushThen (fun _ hu => nextHas_epyxName hP k len 0 (holds_dropCapture hP hu)) h

theorem nextHas_epyxLoadClaimed (k : Nat) (h : P s) : NextHas P (epyxLoadClaimed k s) :=
  hP.unwatched (holds_dropCapture hP h) rfl

theorem nextHas_epyxLoadRead (k : Nat) (h : P s) : NextHas P (epyxLoadRead k s) :=
  nextHas_andThen (hP.bufFill h) fun _ hu => nextHas_epyxTransmit hP _ _ hu

theorem nextHas_epyxFinish (k : Nat) (ps : List Pos) (h : P s) : NextHas P (epyxFinish k ps s) :=
  hP.unwatched (hP.clearFlag (k := k) (f := .epyxLoad) h) rfl

theorem nextHas_epyxLoadByte (k n i : Nat) (h : P s) : NextHas P (epyxLoadByte k n i s) := by
  unfold epyxLoadByte
  split
  · split
    · trivial
    · exact nextHas_epyxTransmit hP _ _ h
  · split
    · exact nextHas_epyxFinish hP k [] h
    · exact h

theorem nextHas_epyxBeat (k i : Nat) (h : P s) : NextHas P (epyxBeat k i s) := by
  unfold epyxBeat
  split
  · split
    · exact nextHas_epyxReceive hP _ (holds_setClk hP false h)
    · exact hP.unwatched h rfl
  · exact hP.failWith (hP.clearFlag h)

theorem nextHas_sectorSend (k i : Nat) (h : P s) : NextHas P (sectorSend k i s) := by
  unfold sectorSend
  split
  · split
    · split
      · trivial
      · exact nextHas_epyxTransmit hP _ _ h
    · exact nextHas_epyxTransmit hP _ _ (hP.unwatched h rfl)
  · exact h

theorem nextHas_sectorReadClaimed (k : Nat) (t sec : Byte) (h : P s) : NextHas P (sectorReadClaimed k t sec s) := by
  unfold sectorReadClaimed
  dsimp only
  split
  · exact hP.unwatched (holds_dropCapture hP h) rfl
  · exact nextHas_sectorSend hP k 0 (holds_dropCapture hP h)

theorem nextHas_sectorWriteClaimed (k : Nat) (t sec : Byte) (h : P s) : NextHas P (sectorWriteClaimed k t sec s) :=
  nextHas_epyxReceive hP _ (holds_dropCapture hP h)

theorem nextHas_sectorAct (k : Nat) (t sec c : Byte) (h : P s) : NextHas P (sectorAct k t sec c s) := by
  unfold sectorAct
  split
  · exact hP.flushThen (fun _ hu => nextHas_sectorReadClaimed hP k t sec hu) h
  · exact hP.flushThen (fun _ hu => nextHas_sectorWriteClaimed hP k t sec hu) h
  · exact hP.unwatched (hP.clearFlag (k := k) (f := .epyxSectorOp) h) rfl

theorem nextHas_sectorCommand (k : Nat) (t : Byte) (h : P s) : NextHas P (sectorCommand k t s) := by
  unfold sectorCommand
  dsimp only
  split
  · exact nextHas_epyxReceive hP _ h
  · exact nextHas_sectorAct hP k t _ _ h

theorem nextHas_sectorWriteByte (k : Nat) (t sec : Byte) (i : Nat) (h : P s) :
    NextHas P (sectorWriteByte k t sec i s) := by
  refine nextHas_andThen (hP.bufWrite h) fun u hu => ?_
  split
  · exact nextHas_epyxReceive hP _ hu
  · split
    · split
      · trivial
      · exact hP.unwatched hu rfl
    · exact hu

theorem nextHas_epyxPending (h : P s) : NextHas P (epyxPending s) := by
  unfold epyxPending
  split
  · exact h
  · next k _ =>
    split
    · split
      · exact hP.unwatched (hP.clearFlag (k := k) (f := .epyxHeader) h) rfl
      · exact h
    · split
      · exact hP.flushThen (fun _ hu => nextHas_epyxLoadClaimed hP k hu) h
      · exact nextHas_epyxBeat hP k 0 h

theorem nextHas_runEpyx (p : EpyxPos) (h : P s) : NextHas P (runEpyx p s) := by
  cases p with
  | headerReady k => exact nextHas_epyxReceive hP _ (holds_setClk hP false h)
  | headerByte k i sum => exact nextHas_epyxHeaderByte hP k i sum h
  | rxBit i v lvl => exact nextHas_epyxRxBit hP i v lvl h
  | txEdge v => exact hP.unwatched h rfl
  | txPair v t0 i => exact nextHas_epyxTxPair hP v t0 i h
  | txClk t0 => exact hP.unwatched h rfl
  | txData => exact hP.unwatched h rfl
  | txTaken => exact hP.unmaskIrq h
  | nameLen k => exact hP.unwatched h rfl
  | nameClaimed k len => exact nextHas_epyxName hP k len 0 (holds_dropCapture hP h)
  | nameByte k len i => exact nextHas_epyxNameByte hP k len i h
  | opened k => exact hP.setFlag h
  | loadClaimed k => exact nextHas_epyxLoadClaimed hP k h
  | loadRead k => exact nextHas_epyxLoadRead hP k h
  | loadByte k n i => exact nextHas_epyxLoadByte hP k n i h
  | guarded k => exact h
  | abort k kind => exact nextHas_epyxFinish hP k _ h
  | closed => exact hP.unwatched h rfl
  | beat k i => exact nextHas_epyxBeat hP k i h
  | beatLow k i => exact hP.unwatched h rfl
  | sectorTrack k => exact nextHas_epyxReceive hP _ h
  | sectorSector k t => exact nextHas_sectorCommand hP k t h
  | sectorCommand k t sec => exact nextHas_sectorAct hP k t sec _ h
  | readClaimed k t sec => exact nextHas_sectorReadClaimed hP k t sec h
  | readFilled k => exact nextHas_andThen (hP.bufFill h) fun _ hu => nextHas_sectorSend hP k 0 hu
  | readSend k i => exact nextHas_sectorSend hP k i h
  | writeClaimed k t sec => exact nextHas_sectorWriteClaimed hP k t sec h
  | writeByte k t sec i => exact nextHas_sectorWriteByte hP k t sec i h

/-! ## The role actions up to their end -/

theorem nextHas_listenFree (k : Nat) (sec : Byte) (h : P s) : NextHas P (listenFree k sec s) := by
  unfold listenFree
  split
  · exact hP.unwatched (hP.newCommand h) rfl
  · exact hP.unwatched h rfl

theorem nextHas_listenFlushed (k : Nat) (sec : Byte) (h : P s) : NextHas P (listenFlushed k sec s) := by
  unfold listenFlushed
  split
  · split
    · exact nextHas_listenFree hP k sec h
    · exact hP.unwatched h rfl
  · exact nextHas_listenFree hP k sec h

theorem nextHas_doListen (k : Nat) (sec : Byte) (h : P s) : NextHas P (doListen k sec s) :=
  hP.flushBeforeCall (fun _ hu => nextHas_listenFlushed hP k sec hu) h

theorem nextHas_talkFree (k : Nat) (sec : Byte) (h : P s) : NextHas P (talkFree k sec s) := by
  have blocked : P (if blockEntry k sec s then s.setFlag k .jiffyBlock else s) := holds_ite (hP.setFlag h) h
  unfold talkFree
  dsimp only
  generalize (if blockEntry k sec s then s.setFlag k .jiffyBlock else s) = u at blocked ⊢
  have dropped : P (if u.flag k .dolphinDetected then dropCapture u else u) :=
    holds_ite (holds_dropCapture hP blocked) blocked
  exact hP.unwatched dropped rfl

theorem nextHas_talkFlushed (k : Nat) (sec : Byte) (h : P s) : NextHas P (talkFlushed k sec s) := by
  unfold talkFlushed
  split
  · split
    · exact nextHas_talkFree hP k sec h
    · exact hP.unwatched h rfl
  · exact nextHas_talkFree hP k sec h

theorem nextHas_doTalk (k : Nat) (sec : Byte) (h : P s) : NextHas P (doTalk k sec s) :=
  hP.flushBeforeCall (fun _ hu => nextHas_talkFlushed hP k sec hu) h

/-! ## The tick between its polls of ATN -/

theorem nextHas_stepDolphin (h : P s) : NextHas P (stepDolphin s) := by
  unfold stepDolphin
  split
  · exact nextHas_dolphinPending hP h
  · exact h

theorem nextHas_stepEpyx (h : P s) : NextHas P (stepEpyx s) := by
  unfold stepEpyx
  split
  · exact nextHas_epyxPending hP h
  · exact h

theorem nextHas_receiveDispatch (h : P s) : NextHas P (receiveDispatch s) := by
  unfold receiveDispatch
  split
  · split
    · exact nextHas_iecReceive hP h
    · exact h
  · refine nextHas_withCurrent fun k => ?_
    split
    · exact nextHas_jiffyReceive hP k h
    · split
      · exact h
      · split
        · exact hP.unwatched h rfl
        · exact nextHas_iecReceive hP h

theorem nextHas_listenStep (h : P s) : NextHas P (listenStep s) := by
  unfold listenStep
  split
  · split
    · exact nextHas_withCurrent fun _ => hP.unwatched (hP.override (on := true) h) rfl
    · exact nextHas_receiveDispatch hP h
  · exact h

theorem nextHas_listenAnswer (w : BitVec 8) (h : P s) : NextHas P (listenAnswer w s) := by
  unfold listenAnswer
  split
  · exact h
  · dsimp only
    split
    · exact hP.override h
    · split
      · exact hP.failWith (hP.override h)
      · exact nextHas_receiveDispatch hP (hP.override h)

theorem nextHas_talkStep (h : P s) : NextHas P (talkStep s) := by
  unfold talkStep
  split
  · exact nextHas_withCurrent fun _ => hP.unwatched (hP.override (on := true) h) rfl
  · exact h

theorem nextHas_transmitNow (k n : Nat) (h : P s) : NextHas P (transmitNow k n s) := by
  unfold transmitNow
  split
  · exact hP.flushThen (fun _ hu => nextHas_jiffyBlockClaimed hP k n hu) h
  · split
    · exact nextHas_jiffyTransmit hP k n h
    · split
      · exact nextHas_dolTransmit hP k n h
      · exact hP.unwatched h rfl

theorem nextHas_transmitDispatch (k n : Nat) (h : P s) : NextHas P (transmitDispatch k n s) := by
  unfold transmitDispatch
  dsimp only
  split
  · exact hP.unwatched h rfl
  · exact nextHas_transmitNow hP k n h

theorem nextHas_talkAnswer (k : Nat) (n : BitVec 8) (h : P s) : NextHas P (talkAnswer k n s) := by
  unfold talkAnswer
  split
  · exact h
  · dsimp only
    split
    · exact hP.override h
    · exact nextHas_transmitDispatch hP k _ (hP.override h)

theorem nextHas_tickReturn (h : P s) : NextHas P (tickReturn s) := by
  unfold tickReturn
  split
  · trivial
  · exact hP.unwatched h rfl

theorem nextHas_pulseEnd (l : Line) (strict : Bool) (h : P s) : NextHas P (runPos (.pulseEnd l strict) s) := by
  refine nextHas_andThen (hP.driveLine h) fun t ht => ?_
  split
  · exact hP.finishWait (strict := true) ht
  · exact ht

/-! ## Channel-15 commands and Epyx uploads -/

/-- Every command that is no primary and no secondary. -/
theorem nextHas_exec_atSite {i : Instr} (hpri : formatOf i ≠ .pri) (hsec : formatOf i ≠ .sec) (h : P s) :
    NextHas P (exec i s) := by
  have popped : P s.pop := hP.unwatched h rfl
  cases i with
  | xq =>
    exact nextHas_atSite_next (g := fun k t => epyxReset (dolphinRequest k .tx t)) fun k =>
      hP.epyxReset (holds_dolphinRequest hP k .tx popped)
  | xz =>
    exact nextHas_atSite_next (g := fun k t => epyxReset (dolphinRequest k .rx t)) fun k =>
      hP.epyxReset (holds_dolphinRequest hP k .rx popped)
  | xfPlus =>
    exact nextHas_atSite_next (g := fun k t => epyxReset (burstEnable k true t)) fun k =>
      hP.epyxReset (holds_burstEnable hP k true popped)
  | xfMinus =>
    exact nextHas_atSite_next (g := fun k t => epyxReset (burstEnable k false t)) fun k =>
      hP.epyxReset (holds_burstEnable hP k false popped)
  | memWrite addr len payload => exact nextHas_atSite_next fun k => hP.epyxMw popped
  | memExecute addr => exact nextHas_atSite_next fun k => hP.epyxMe popped
  | epyxLoadV1 => exact nextHas_atSite fun k => nextHas_epyxReceive hP _ popped
  | epyxLoadV2 => exact nextHas_atSite fun k => nextHas_epyxReceive hP _ popped
  | epyxLoadV3 => exact nextHas_atSite fun k => nextHas_epyxReceive hP _ popped
  | epyxSector0B => exact nextHas_atSite fun k => nextHas_epyxSector hP k _ popped
  | epyxSectorB8 => exact nextHas_atSite fun k => nextHas_epyxSector hP k _ popped
  | epyxSectorBA => exact nextHas_atSite fun k => nextHas_epyxSector hP k _ popped
  | epyxUnknownSum sum => exact nextHas_atSite fun k => hP.failWith popped
  | epyxHdr len => exact nextHas_atSite fun k => nextHas_epyxNameStart hP k len popped
  | nullPrimary | unlisten | untalk | listen | talk | reservedPrimaryLow | reservedPrimary60 | reservedPrimary80 =>
    exact absurd rfl hpri
  | close15Ignored | dataCh | closeCh | openCh | reservedSecondary03 | reservedSecondary45 | reservedSecondary7
    | reservedSecondary8B | reservedSecondaryCD => exact absurd rfl hsec

/-! ## The yield points -/

theorem holds_driveLines (d : Drives) (h : P s) : P (driveLines d s) := by
  unfold driveLines
  dsimp only
  split
  · next hfell =>
    have attached : s.env.attached = true := (Bool.and_eq_true_iff.1 hfell).2
    split
    · exact hP.atnIsr (s := { s with env := { s.env with drives := d, edge := false } }) attached (hP.unwatched h rfl)
    · exact hP.unwatched h rfl
  · exact hP.unwatched h rfl

theorem holds_deliverInterrupt (pin : Nat) (h : P s) : P (deliverInterrupt pin s) := by
  unfold deliverInterrupt
  split
  · next hhere =>
    have attached : s.env.attached = true := (Bool.and_eq_true_iff.1 (Bool.and_eq_true_iff.1 hhere).1).2
    exact hP.atnIsr (s := { s with env := { s.env with edge := false } }) attached (hP.unwatched h rfl)
  · exact h

theorem nextHas_pollWith (strict reached timeout : Bool) {stay : State} (hstay : P stay) (h : P s) :
    NextHas P (pollWith strict reached timeout stay s) := by
  have popped : P s.pop := hP.unwatched h rfl
  unfold pollWith
  split
  · exact hP.finishWait popped
  · split
    · exact hP.finishWait popped
    · split
      · exact hP.finishWait popped
      · exact hstay

theorem nextHas_engineMove (y : Yield) (a : Answer) (h : P s) : NextHas P (engineMove y a s) := by
  cases y with
  | between => exact h
  | call c =>
    simp only [engineMove, returnCall]
    split
    · exact hP.unwatched h rfl
    · trivial
  | waitFor l lvl t start strict => exact nextHas_pollWith hP _ _ _ h h
  | waitUs t start strict => exact nextHas_pollWith hP _ _ _ h h
  | waitUntil half t0 => exact nextHas_pollWith hP _ _ _ h h
  | waitHr edge t start prev strict => exact nextHas_pollWith hP _ _ _ (hP.unwatched h rfl) h

/-- Every move but a call of the main loop, of which `hhost` says it. -/
theorem nextHas_runMove (y : Yield) (m : Move) (hhost : ∀ c, NextHas P (hostCall c s)) (h : P s) :
    NextHas P (runMove y m s) := by
  cases m with
  | drive d => exact holds_driveLines hP d h
  | clock dt => exact hP.unwatched h rfl
  | interrupt pin => exact holds_deliverInterrupt hP pin h
  | engine a => exact nextHas_engineMove hP y a h
  | host c => exact hhost c

theorem holds_takeMove (h : P s) : P (takeMove s) := by
  unfold takeMove
  split <;> exact hP.unwatched h rfl

end Routines

end Sys2Proof.Machine

/-! # Proofs for 10_state: every step keeps the invariant and the rules on mode and selection -/

namespace Sys2Proof.Machine

variable {s t : State}

/-! ## All that a primary or a secondary can do (41_iec_core R512, R520) -/

/-- The answers of a primary or a secondary at a decode point of `s`: under ATN the captures of R520, and at the ATN
rise the role actions of R512. -/
inductive AddressCase (s : State) : Res → Prop where
  | null (atn : s.fl.atnActive = true) : AddressCase s (rxAck 0x00 false false s.pop)
  | acknowledged (rx : Byte) (atn : s.fl.atnActive = true) : AddressCase s (rxAck rx false false (setPrimary rx s.pop))
  | recorded (rx : Byte) (atn : s.fl.atnActive = true) : AddressCase s (.next (setPrimary rx s.pop))
  | listen (a : BitVec 5) (atn : s.fl.atnActive = true) : AddressCase s (captureAddress (listenByte a) a s.pop)
  | talk (a : BitVec 5) (atn : s.fl.atnActive = true) : AddressCase s (captureAddress (talkByte a) a s.pop)
  | secondary (rx : Byte) (atn : s.fl.atnActive = true) : AddressCase s (captureSecondary rx s.pop)
  | noRole : AddressCase s (.next (goIdle s.pop))
  | doListen (k : Nat) (sec : Byte) : AddressCase s (doListen k sec s.pop)
  | doTalk (k : Nat) (sec : Byte) : AddressCase s (doTalk k sec s.pop)
  | doUnlisten : AddressCase s (doUnlisten s.pop)
  | doUntalk : AddressCase s (doUntalk s.pop)

theorem AddressCase.underAtn_or_rise {r r' : Res} (hr : s.fl.atnActive = true → AddressCase s r)
    (hr' : AddressCase s r') : AddressCase s (if s.fl.atnActive then r else r') := by
  split
  · next atn => exact hr atn
  · exact hr'

theorem riseRole_addressCase (sec : Byte) : AddressCase s (riseRole sec s.pop) := by
  unfold riseRole
  split
  · exact .doListen _ sec
  · exact .doTalk _ sec
  · exact .doUnlisten
  · exact .doUntalk
  all_goals exact .noRole

theorem secondary_addressCase (b : Byte) :
    AddressCase s (if s.fl.atnActive then captureSecondary b s.pop else riseRole b s.pop) :=
  .underAtn_or_rise (.secondary b) (riseRole_addressCase b)

theorem reserved_addressCase (rx : Byte) :
    AddressCase s (if s.fl.atnActive then .next (setPrimary rx s.pop) else notForUs s.pop) :=
  .underAtn_or_rise (.recorded rx) .noRole

theorem execListen_addressCase (a : BitVec 5) : AddressCase s (execListen a s) := by
  refine .underAtn_or_rise (.listen a) ?_
  split
  · exact .doListen _ _
  · exact .noRole

theorem execTalk_addressCase (a : BitVec 5) : AddressCase s (execTalk a s) := by
  refine .underAtn_or_rise (.talk a) ?_
  split
  · exact .doTalk _ _
  · exact .noRole

theorem execClose15Ignored_addressCase : AddressCase s (execClose15Ignored s) := by
  refine .underAtn_or_rise (.secondary 0xEF) ?_
  split
  · exact .noRole
  · exact riseRole_addressCase 0xEF

/-- All that a command of the two addressing formats can do. -/
theorem exec_addressCase {i : Instr} (hf : formatOf i = .pri ∨ formatOf i = .sec) : AddressCase s (exec i s) := by
  cases i with
  | nullPrimary => exact .underAtn_or_rise .null .noRole
  | unlisten => exact .underAtn_or_rise (.acknowledged 0x3F) .doUnlisten
  | untalk => exact .underAtn_or_rise (.acknowledged 0x5F) .doUntalk
  | listen addr => exact execListen_addressCase addr
  | talk addr => exact execTalk_addressCase addr
  | reservedPrimaryLow low => exact reserved_addressCase _
  | reservedPrimary60 low => exact reserved_addressCase _
  | reservedPrimary80 low => exact reserved_addressCase _
  | close15Ignored => exact execClose15Ignored_addressCase
  | dataCh chan => exact secondary_addressCase _
  | closeCh chan => exact secondary_addressCase _
  | openCh chan => exact secondary_addressCase _
  | reservedSecondary03 grp chan => exact secondary_addressCase _
  | reservedSecondary45 grp chan => exact secondary_addressCase _
  | reservedSecondary7 chan => exact secondary_addressCase _
  | reservedSecondary8B grp chan => exact secondary_addressCase _
  | reservedSecondaryCD grp chan => exact secondary_addressCase _
  | xq | xz | xfPlus | xfMinus | memWrite | memExecute | epyxLoadV1 | epyxLoadV2 | epyxLoadV3 | epyxSector0B
    | epyxSectorB8 | epyxSectorBA | epyxUnknownSum | epyxHdr => exact absurd hf (by simp [formatOf])

/-- At a yield point a step is one move of an agent. -/
theorem step_of_atYield (h : AtYield s) : ∃ y, step s = runMove y (nextMove s) (takeMove s) := by
  obtain hseq | ⟨y, rest, hseq⟩ := h
  · exact ⟨.between, by simp only [step, advance, hseq, yieldMove]⟩
  · exact ⟨y, by simp only [step, advance, hseq, yieldMove]⟩

/-! ## The invariant through the addressing commands -/

theorem nextHas_inv_captureAddress (rx : Byte) (a : BitVec 5) (h : Inv s) : NextHas Inv (captureAddress rx a s) := by
  unfold captureAddress
  dsimp only
  split <;> exact h

theorem nextHas_inv_captureSecondary (rx : Byte) (h : Inv s) : NextHas Inv (captureSecondary rx s) := by
  unfold captureSecondary
  dsimp only
  split
  · exact h
  · split
    · exact h
    · exact nextHas_rxAck (s := { s with addr := { s.addr with secondary := rx, secValid := true } })
        keptByOperations_inv rx false true h

theorem nextHas_inv_doUnlisten (h : Inv s) : NextHas Inv (doUnlisten s) := by
  unfold doUnlisten
  split
  · exact h
  · split <;> exact h

theorem nextHas_inv_doUntalk (h : Inv s) : NextHas Inv (doUntalk s) := by
  unfold doUntalk
  split <;> exact h

theorem nextHas_inv_addressCase {r : Res} (hr : AddressCase s r) (h : Inv s) : NextHas Inv r := by
  have popped : Inv s.pop := h
  cases hr with
  | null => exact nextHas_rxAck keptByOperations_inv _ _ _ popped
  | acknowledged rx => exact nextHas_rxAck keptByOperations_inv _ _ _ ((inv_setPrimary rx s.pop).2 popped)
  | recorded rx => exact h
  | listen a => exact nextHas_inv_captureAddress _ a popped
  | talk a => exact nextHas_inv_captureAddress _ a popped
  | secondary rx => exact nextHas_inv_captureSecondary rx popped
  | noRole => exact h
  | doListen k sec => exact nextHas_doListen keptByOperations_inv k sec popped
  | doTalk k sec => exact nextHas_doTalk keptByOperations_inv k sec popped
  | doUnlisten => exact nextHas_inv_doUnlisten popped
  | doUntalk => exact nextHas_inv_doUntalk popped

theorem nextHas_inv_exec (i : Instr) (h : Inv s) : NextHas Inv (exec i s) := by
  by_cases hf : formatOf i = .pri ∨ formatOf i = .sec
  · exact nextHas_inv_addressCase (exec_addressCase hf) h
  · obtain ⟨hpri, hsec⟩ := not_or.1 hf
    exact nextHas_exec_atSite keptByOperations_inv hpri hsec h

/-! ## The invariant through RESET, construction and the statements that poll ATN -/

theorem and_wired_and_not (f w : BitVec 12) : (f &&& w) &&& ~~~w = 0 := by
  rw [BitVec.and_assoc, BitVec.and_not_self]
  exact BitVec.and_zero

theorem tableOk_restore (h : Inv s) : tableOk { s with dev := s.dev.map (Entry.restore s.cfg) } := by
  refine (inv_dev _ (map_identity_map _ _ (Entry.identity_restore s.cfg)) (fun e he => ?_) h).1
  obtain ⟨d, -, rfl⟩ := List.mem_map.1 he
  exact and_wired_and_not _ _

theorem inv_resetFields (h : Inv s) : Inv (resetFields s) := by
  obtain ⟨-, -, ⟨-, -, hattached, -⟩, -, -, hregistry⟩ := id h
  exact ⟨tableOk_restore h, ⟨rfl, rfl, rfl, rfl, Nat.zero_le _, rfl⟩,
    ⟨fun _ => rfl, fun _ => ⟨rfl, rfl⟩, hattached, fun hp => absurd hp Bool.false_ne_true⟩,
    ⟨Nat.zero_le _, Nat.zero_le _⟩, iff_of_true rfl rfl, hregistry⟩

theorem inv_resetStep (h : Inv s) : Inv (resetStep s) := by
  unfold resetStep
  split
  · dsimp only
    split
    · exact inv_resetFields (s := { s with fl := { s.fl with resetSeenPrev := lineLow s .reset } }) h
    · exact h
  · exact h

theorem inv_addDevice (d : Handle) (flags : BitVec 12) (h : Inv s) : Inv (addDevice d flags s) := by
  unfold addDevice
  dsimp only
  split
  · exact h
  · next hnew =>
    obtain ⟨ha, hunused, hroom⟩ := not_or.1 hnew |>.imp_right not_or.1
    obtain ⟨⟨-, hnodup, hentries⟩, hrest⟩ := h
    refine ⟨⟨?_, ?_, ?_⟩, hrest⟩
    · simp only [List.length_append, List.length_singleton]
      omega
    · rw [List.map_append, List.nodup_append]
      refine ⟨hnodup, List.nodup_singleton _, fun a hmem b hb hab => hunused ?_⟩
      obtain ⟨e, he, rfl⟩ := List.mem_map.1 hmem
      obtain rfl := List.mem_singleton.1 hb
      simp only [List.any_eq_true, Bool.and_eq_true, beq_iff_eq]
      exact ⟨e, he, (hentries e he).1, hab⟩
    · intro e he
      obtain he | he := List.mem_append.1 he
      · exact hentries e he
      · obtain rfl := List.mem_singleton.1 he
        refine ⟨rfl, ha, and_wired_and_not _ _, ?_⟩
        dsimp only
        rw [BitVec.and_assoc flags persistentMask]
        exact and_wired_and_not _ _

theorem inv_attachIsr (h : Inv s) : Inv (attachIsr s) := by
  obtain ⟨ht, hb, ⟨hctrl, hpar, -, hpending⟩, hcounters⟩ := h
  exact ⟨ht, hb, ⟨hctrl, hpar, fun ha => (Bool.and_eq_true_iff.1 ha).1, hpending⟩, hcounters⟩

theorem nextHas_inv_tickFinish (h : Inv s) : NextHas Inv (tickFinish s) := by
  unfold tickFinish
  split
  · trivial
  · dsimp only
    split
    · exact inv_atnRequest h
    · exact h

theorem nextHas_inv_runTick (p : TickPos) (h : Inv s) : NextHas Inv (runTick p s) := by
  cases p with
  | s1 => exact inv_resetStep h
  | s2 => exact inv_atnRequest h
  | s3 => exact nextHas_stepDolphin keptByOperations_inv h
  | s4 => exact nextHas_stepEpyx keptByOperations_inv h
  | s5 => exact nextHas_listenStep keptByOperations_inv h
  | s6 => exact nextHas_talkStep keptByOperations_inv h
  | s7 => exact inv_atnRequest h
  | s8 => exact h
  | finish => exact nextHas_inv_tickFinish h
  | posted => exact nextHas_tickReturn keptByOperations_inv h
  | canWrite => exact inv_atnRequest h
  | listen w => exact nextHas_listenAnswer keptByOperations_inv w h
  | canRead k => exact inv_atnRequest h
  | talk k n => exact nextHas_talkAnswer keptByOperations_inv k n h
  | transmit k n => exact nextHas_transmitNow keptByOperations_inv k n h

theorem nextHas_inv_runRole (p : RolePos) (h : Inv s) : NextHas Inv (runRole p s) := by
  cases p with
  | listenFlushed k sec => exact nextHas_listenFlushed keptByOperations_inv k sec h
  | listenFree k sec => exact nextHas_listenFree keptByOperations_inv k sec h
  | talkFlushed k sec => exact nextHas_talkFlushed keptByOperations_inv k sec h
  | talkFree k sec => exact nextHas_talkFree keptByOperations_inv k sec h
  | listenDone | talkCalled | reverse | unlisten | unlistenDone | untalkDone => exact h

theorem nextHas_inv_runPos (p : Pos) (h : Inv s) : NextHas Inv (runPos p s) := by
  cases p with
  | decode site => exact h
  | yield y => exact h
  | boot p =>
    cases p with
    | added d flags => exact inv_addDevice d flags h
    | attach => exact inv_attachIsr h
  | tick p => exact nextHas_inv_runTick p h
  | role p => exact nextHas_inv_runRole p h
  | rx p => exact nextHas_runRx keptByOperations_inv p h
  | tx p => exact nextHas_runTx keptByOperations_inv p h
  | jiffy p => exact nextHas_runJiffy keptByOperations_inv p h
  | dol p => exact nextHas_runDol keptByOperations_inv p h
  | epyx p => exact nextHas_runEpyx keptByOperations_inv p h
  | pulseEnd l strict => exact nextHas_pulseEnd keptByOperations_inv l strict h
  | raise kind => exact keptByOperations_inv.failWith (kind := kind) h

/-! ## The invariant through the calls of the main loop -/

theorem inv_constructed (c : Cfg) (n : Nat) (slots : List RegistrySlot) (e : Env) (he : e.attached = false)
    (hslots : slots.length ≤ c.maxEngines) : Inv (State.constructed c n slots e) :=
  ⟨⟨Nat.zero_le _, List.nodup_nil, fun _ h => absurd h List.not_mem_nil⟩,
    ⟨rfl, rfl, rfl, rfl, Nat.zero_le _, rfl⟩,
    ⟨fun _ => rfl, fun _ => ⟨rfl, rfl⟩, fun ha => absurd (he.symm.trans ha) Bool.false_ne_true,
      fun hp => absurd hp Bool.false_ne_true⟩,
    ⟨Nat.zero_le _, Nat.zero_le _⟩, iff_of_true rfl rfl, hslots⟩

theorem nextHas_inv_hostConstruct (c : Cfg) (pin : Nat) (h : Inv s) : NextHas Inv (hostConstruct c pin s) := by
  have grown : (s.registry ++ [(⟨s.registry.length, pin⟩ : RegistrySlot)]).length = s.registry.length + 1 :=
    List.length_append
  unfold hostConstruct
  dsimp only
  split
  · split
    · trivial
    · next hfree =>
      split
      · trivial
      · exact inv_constructed _ _ _ _ rfl (by omega)
  · split
    · trivial
    · next hfree =>
      split
      · trivial
      · obtain ⟨ht, hb, hw, hdol, hepyx, -⟩ := h
        refine ⟨ht, hb, hw, hdol, hepyx, ?_⟩
        show (s.registry ++ [_]).length ≤ s.cfg.maxEngines
        omega

theorem nextHas_inv_hostBegin (h : Inv s) : NextHas Inv (hostBegin s) := by
  unfold hostBegin
  split
  · trivial
  · split
    · exact inv_override (s := if (releaseBoth s).cfg.hasParallel then setHt false (parInput (releaseBoth s))
        else releaseBoth s) false (holds_ite (inv_setHt false (inv_parInput h)) h)
    · trivial

theorem nextHas_inv_hostCall (c : HostCall) (h : Inv s) : NextHas Inv (hostCall c s) := by
  cases c with
  | construct c pin => exact nextHas_inv_hostConstruct c pin h
  | addDevice d flags =>
    simp only [hostCall, hostAdd]
    split
    · trivial
    · split
      · exact h
      · trivial
  | begin => exact nextHas_inv_hostBegin h
  | tick =>
    simp only [hostCall, hostTick]
    split
    · trivial
    · split
      · exact h
      · trivial

theorem nextHas_inv_step (h : Inv s) : NextHas Inv (step s) := by
  by_cases hy : AtYield s
  · obtain ⟨y, hstep⟩ := step_of_atYield hy
    have taken := holds_takeMove keptByOperations_inv h
    rw [hstep]
    exact nextHas_runMove keptByOperations_inv y _ (fun c => nextHas_inv_hostCall c taken) taken
  · obtain ⟨i, hstep⟩ | hstep | ⟨e, hstep⟩ | ⟨p, rest, -, hstep⟩ := step_cases_of_not_atYield hy
    · rw [hstep]
      exact nextHas_inv_exec i h
    · rw [hstep]
      exact inv_epyxReset (s := s.pop) h
    · rw [hstep]
      trivial
    · rw [hstep]
      exact nextHas_inv_runPos p h

/-- Settles O7: `Inv` goes through every command, every statement and every move. -/
theorem everyStepKeepsTheInvariant : Obligations.EveryStepKeepsTheInvariant := by
  intro s t h hstep
  have kept := nextHas_inv_step h
  rwa [hstep] at kept

end Sys2Proof.Machine

namespace Sys2Proof.Machine

variable {s t u : State}

/-! ## The rules on mode and selection (10_state R101, R103) -/

/-- What the rules of 10_state R101, R103, R115, R116 and R120 allow a step from `s` to `t` to change. -/
structure RulesKept (s t : State) : Prop where
  addressed : t.addr.primary ≠ s.addr.primary ∨ t.addr.secondary ≠ s.addr.secondary →
    t.fl.atnActive = true ∨ t.addr = ⟨0x00, 0x00, false⟩
  selected : ∀ k, t.sel.current = some k → s.sel.current = some k ∨ s.fl.atnActive = true ∧ ∃ a : BitVec 5,
    find s a = some k ∧ (t.addr.primary = 0x20 ||| a.setWidth 8 ∨ t.addr.primary = 0x40 ||| a.setWidth 8)
  idle : t.bus.mode = .idle → s.bus.mode = .idle ∨ t.drv.clk = false ∧ t.drv.data = false ∧ t.sel.current = none
  listening : t.bus.mode = .listening → s.bus.mode = .listening ∨ s.seq.head? = some (.role .listenDone)
  talking : t.bus.mode = .talking → s.bus.mode = .talking ∨ s.seq.head? = some (.role .talkCalled)
  underAtn : t.bus.mode = .underAtn → s.bus.mode = .underAtn ∨ t.fl.atnActive = true ∧ t.sel.current = none

/-- A step under ATN that keeps the mode can write `primary` and `secondary`, and select a device by the rule. -/
theorem rulesKept_of_underAtn (hmode : t.bus.mode = s.bus.mode) (hatn : t.fl.atnActive = true)
    (hsel : ∀ k, t.sel.current = some k → s.sel.current = some k ∨ s.fl.atnActive = true ∧ ∃ a : BitVec 5,
      find s a = some k ∧ (t.addr.primary = 0x20 ||| a.setWidth 8 ∨ t.addr.primary = 0x40 ||| a.setWidth 8)) :
    RulesKept s t where
  addressed _ := .inl hatn
  selected := hsel
  idle h := .inl (hmode ▸ h)
  listening h := .inl (hmode ▸ h)
  talking h := .inl (hmode ▸ h)
  underAtn h := .inl (hmode ▸ h)

theorem rulesKept_of_sameRole (haddr : t.addr = s.addr) (hcur : t.sel.current = s.sel.current)
    (hmode : t.bus.mode = s.bus.mode) : RulesKept s t where
  addressed h := by simp [haddr] at h
  selected k h := .inl (hcur ▸ h)
  idle h := .inl (hmode ▸ h)
  listening h := .inl (hmode ▸ h)
  talking h := .inl (hmode ▸ h)
  underAtn h := .inl (hmode ▸ h)

/-- The ATN fall writes `primary` and `secondary`, whatever came before it in the same step. -/
theorem rulesKept_of_fallen (hmode : t.bus.mode = .underAtn) (hatn : t.fl.atnActive = true)
    (hcur : t.sel.current = none) : RulesKept s t where
  addressed _ := .inl hatn
  selected k h := by simp [hcur] at h
  idle h := by simp [hmode] at h
  listening h := by simp [hmode] at h
  talking h := by simp [hmode] at h
  underAtn _ := .inr ⟨hatn, hcur⟩

theorem rulesKept_of_roleKept (h : RoleKept s t) : RulesKept s t := by
  obtain ⟨haddr, hcur, hmode, -⟩ | ⟨hmode, hatn, hcur⟩ := h
  · exact rulesKept_of_sameRole haddr hcur hmode
  · exact rulesKept_of_fallen hmode hatn hcur

/-- The end of every role releases both lines and selects no device (41_iec_core R515 to R518). -/
theorem rulesKept_goIdle (haddr : u.addr = s.addr) : RulesKept s (goIdle u) where
  addressed h := by simp [haddr] at h
  selected _ h := nomatch h
  idle _ := .inr ⟨rfl, rfl, rfl⟩
  listening h := nomatch h
  talking h := nomatch h
  underAtn h := nomatch h

theorem rulesKept_resetAll : RulesKept s (resetAll u) where
  addressed _ := .inr rfl
  selected _ h := nomatch h
  idle _ := .inr ⟨rfl, rfl, rfl⟩
  listening h := nomatch h
  talking h := nomatch h
  underAtn h := nomatch h

theorem rulesKept_resetStep (h : RoleKept s u) : RulesKept s (resetStep u) := by
  unfold resetStep
  split
  · dsimp only
    split
    · exact rulesKept_resetAll
    · exact rulesKept_of_roleKept h
  · exact rulesKept_of_roleKept h

/-- A poll of ATN: the fall, or the rise, which keeps mode and selection for its decode point. -/
theorem rulesKept_atnRequest (haddr : u.addr = s.addr) (hcur : u.sel.current = s.sel.current)
    (hmode : u.bus.mode = s.bus.mode) : RulesKept s (atnRequest u) := by
  unfold atnRequest
  split
  · exact rulesKept_of_fallen rfl rfl rfl
  · split <;> exact rulesKept_of_sameRole haddr hcur hmode

/-! ## The addressing commands -/

/-- Under ATN a command can write `primary` and `secondary`, and whatever follows keeps them or is the next fall. -/
theorem rulesKept_of_captured (hatn : u.fl.atnActive = true) (hcur : u.sel.current = s.sel.current)
    (hmode : u.bus.mode = s.bus.mode) (h : RoleKept u t) : RulesKept s t := by
  obtain ⟨-, hcur', hmode', hatn'⟩ | ⟨hmode', hatn', hcur'⟩ := h
  · exact rulesKept_of_underAtn (hmode'.trans hmode) (hatn'.trans hatn) fun k hk =>
      .inl (hcur.symm.trans (hcur'.symm.trans hk))
  · exact rulesKept_of_fallen hmode' hatn' hcur'

theorem nextHas_of_roleKept {r : Res} (h : NextHas (RoleKept s) r) : NextHas (RulesKept s) r := by
  cases r with
  | next t => exact rulesKept_of_roleKept h
  | fault e => trivial
  | refused e => trivial

theorem nextHas_of_captured {r : Res} (hatn : u.fl.atnActive = true) (hcur : u.sel.current = s.sel.current)
    (hmode : u.bus.mode = s.bus.mode) (h : NextHas (RoleKept u) r) : NextHas (RulesKept s) r := by
  cases r with
  | next t => exact rulesKept_of_captured hatn hcur hmode h
  | fault e => trivial
  | refused e => trivial

theorem listenByte_eq (a : BitVec 5) : listenByte a = 0x20 ||| a.setWidth 8 := by revert a; decide

theorem talkByte_eq (a : BitVec 5) : talkByte a = 0x40 ||| a.setWidth 8 := by revert a; decide

/-- A LISTEN or TALK under ATN selects the device whose address matches, or none. -/
theorem nextHas_rules_captureAddress {rx : Byte} {a : BitVec 5} (hatn : s.fl.atnActive = true)
    (hrx : rx = 0x20 ||| a.setWidth 8 ∨ rx = 0x40 ||| a.setWidth 8) :
    NextHas (RulesKept s) (captureAddress rx a s.pop) := by
  unfold captureAddress
  dsimp only
  split
  · exact rulesKept_of_captured (u := setPrimary rx s.pop) hatn rfl rfl (kept_refl _)
  · next k hfind =>
    exact rulesKept_of_underAtn rfl hatn fun j hj => .inr ⟨hatn, a, hfind.trans hj, hrx⟩

theorem nextHas_rules_captureSecondary (rx : Byte) (hatn : s.fl.atnActive = true) :
    NextHas (RulesKept s) (captureSecondary rx s.pop) := by
  have captured := kept_refl { s.pop with addr := { s.pop.addr with secondary := rx, secValid := true } }
  refine nextHas_of_captured (u := { s.pop with addr := { s.pop.addr with secondary := rx, secValid := true } })
    hatn rfl rfl ?_
  unfold captureSecondary
  dsimp only
  split
  · exact captured
  · split
    · exact captured
    · exact nextHas_rxAck (keptByOperations_roleKept _) rx false true captured

theorem nextHas_rules_doUnlisten : NextHas (RulesKept s) (doUnlisten s.pop) := by
  unfold doUnlisten
  split
  · exact rulesKept_goIdle rfl
  · split <;> exact rulesKept_of_sameRole rfl rfl rfl

theorem nextHas_rules_doUntalk : NextHas (RulesKept s) (doUntalk s.pop) := by
  unfold doUntalk
  split
  · exact rulesKept_goIdle rfl
  · exact rulesKept_of_sameRole rfl rfl rfl

theorem nextHas_rules_addressCase {r : Res} (hr : AddressCase s r) : NextHas (RulesKept s) r := by
  have popped : RoleKept s s.pop := kept_refl s
  cases hr with
  | null =>
    exact nextHas_of_roleKept (nextHas_rxAck (keptByOperations_roleKept s) _ _ _ popped)
  | acknowledged rx atn =>
    exact nextHas_of_captured (u := setPrimary rx s.pop) atn rfl rfl
      (nextHas_rxAck (keptByOperations_roleKept _) _ _ _ (kept_refl _))
  | recorded rx atn => exact rulesKept_of_captured (u := setPrimary rx s.pop) atn rfl rfl (kept_refl _)
  | listen a atn => exact nextHas_rules_captureAddress atn (.inl (listenByte_eq a))
  | talk a atn => exact nextHas_rules_captureAddress atn (.inr (talkByte_eq a))
  | secondary rx atn => exact nextHas_rules_captureSecondary rx atn
  | noRole => exact rulesKept_goIdle rfl
  | doListen k sec => exact nextHas_of_roleKept (nextHas_doListen (keptByOperations_roleKept s) k sec popped)
  | doTalk k sec => exact nextHas_of_roleKept (nextHas_doTalk (keptByOperations_roleKept s) k sec popped)
  | doUnlisten => exact nextHas_rules_doUnlisten
  | doUntalk => exact nextHas_rules_doUntalk

theorem nextHas_rules_exec (i : Instr) : NextHas (RulesKept s) (exec i s) := by
  by_cases hf : formatOf i = .pri ∨ formatOf i = .sec
  · exact nextHas_rules_addressCase (exec_addressCase hf)
  · obtain ⟨hpri, hsec⟩ := not_or.1 hf
    exact nextHas_of_roleKept (nextHas_exec_atSite (keptByOperations_roleKept s) hpri hsec (kept_refl s))

/-! ## The statements and the moves -/

theorem nextHas_rules_tickFinish (rest : List Pos) :
    NextHas (RulesKept s) (tickFinish { s with seq := rest }) := by
  unfold tickFinish
  split
  · trivial
  · dsimp only
    split
    · exact rulesKept_atnRequest rfl rfl rfl
    · exact rulesKept_of_sameRole rfl rfl rfl

/-- The statements of the tick: those that poll ATN or RESET, and the others, which keep mode and selection. -/
theorem nextHas_rules_runTick (p : TickPos) (rest : List Pos) :
    NextHas (RulesKept s) (runTick p { s with seq := rest }) := by
  have kept := kept_refl s
  have hP := keptByOperations_roleKept s
  cases p with
  | s1 => exact rulesKept_resetStep kept
  | s2 => exact rulesKept_atnRequest rfl rfl rfl
  | s3 => exact nextHas_of_roleKept (nextHas_stepDolphin hP kept)
  | s4 => exact nextHas_of_roleKept (nextHas_stepEpyx hP kept)
  | s5 => exact nextHas_of_roleKept (nextHas_listenStep hP kept)
  | s6 => exact nextHas_of_roleKept (nextHas_talkStep hP kept)
  | s7 => exact rulesKept_atnRequest rfl rfl rfl
  | s8 => exact rulesKept_of_roleKept kept
  | finish => exact nextHas_rules_tickFinish rest
  | posted => exact nextHas_of_roleKept (nextHas_tickReturn hP kept)
  | canWrite => exact rulesKept_atnRequest rfl rfl rfl
  | listen w => exact nextHas_of_roleKept (nextHas_listenAnswer hP w kept)
  | canRead k => exact rulesKept_atnRequest rfl rfl rfl
  | talk k n => exact nextHas_of_roleKept (nextHas_talkAnswer hP k n kept)
  | transmit k n => exact nextHas_of_roleKept (nextHas_transmitNow hP k n kept)

theorem rulesKept_setMode_listening (hhead : s.seq.head? = some (.role .listenDone)) (rest : List Pos) :
    RulesKept s (setMode .listening { s with seq := rest }) where
  addressed h := by simp at h
  selected _ h := .inl h
  idle h := nomatch h
  listening _ := .inr hhead
  talking h := nomatch h
  underAtn h := nomatch h

theorem rulesKept_talkCalled (hhead : s.seq.head? = some (.role .talkCalled)) (rest : List Pos) :
    RulesKept s (talkCalled { s with seq := rest }) where
  addressed h := by simp [talkCalled] at h
  selected _ h := .inl h
  idle h := nomatch h
  listening h := nomatch h
  talking _ := .inr hhead
  underAtn h := nomatch h

theorem nextHas_rules_runRole {p : RolePos} {rest : List Pos} (hseq : s.seq = .role p :: rest) :
    NextHas (RulesKept s) (runRole p { s with seq := rest }) := by
  have kept := kept_refl s
  have hP := keptByOperations_roleKept s
  have hhead : s.seq.head? = some (.role p) := by rw [hseq, List.head?_cons]
  cases p with
  | listenFlushed k sec => exact nextHas_of_roleKept (nextHas_listenFlushed hP k sec kept)
  | listenFree k sec => exact nextHas_of_roleKept (nextHas_listenFree hP k sec kept)
  | listenDone => exact rulesKept_setMode_listening hhead rest
  | talkFlushed k sec => exact nextHas_of_roleKept (nextHas_talkFlushed hP k sec kept)
  | talkFree k sec => exact nextHas_of_roleKept (nextHas_talkFree hP k sec kept)
  | talkCalled => exact rulesKept_talkCalled hhead rest
  | reverse => exact rulesKept_of_roleKept kept
  | unlisten k => exact rulesKept_of_roleKept kept
  | unlistenDone => exact rulesKept_goIdle rfl
  | untalkDone => exact rulesKept_goIdle rfl

/-- Every statement that can stand on the sequencer once `begin()` is over. -/
theorem nextHas_rules_runPos {p : Pos} {rest : List Pos} (hready : Ready s) (hseq : s.seq = p :: rest) :
    NextHas (RulesKept s) (runPos p { s with seq := rest }) := by
  have kept := kept_refl s
  have hP := keptByOperations_roleKept s
  cases p with
  | decode site => exact rulesKept_of_roleKept kept
  | yield y => exact rulesKept_of_roleKept kept
  | boot p => simp [Ready, hseq, Pos.isBoot] at hready
  | tick p => exact nextHas_rules_runTick p rest
  | role p => exact nextHas_rules_runRole hseq
  | rx p => exact nextHas_of_roleKept (nextHas_runRx hP p kept)
  | tx p => exact nextHas_of_roleKept (nextHas_runTx hP p kept)
  | jiffy p => exact nextHas_of_roleKept (nextHas_runJiffy hP p kept)
  | dol p => exact nextHas_of_roleKept (nextHas_runDol hP p kept)
  | epyx p => exact nextHas_of_roleKept (nextHas_runEpyx hP p kept)
  | pulseEnd l strict => exact nextHas_of_roleKept (nextHas_pulseEnd hP l strict kept)
  | raise kind => exact nextHas_of_roleKept (hP.failWith (kind := kind) kept)

/-- After `begin()` a call of the main loop is refused, takes a registry slot, or starts a tick. -/
theorem nextHas_roleKept_hostCall (hlife : t.life = .begun) (h : RoleKept s t) (c : HostCall) :
    NextHas (RoleKept s) (hostCall c t) := by
  cases c with
  | construct c pin =>
    simp only [hostCall, hostConstruct, hlife, reduceCtorEq, if_false]
    split
    · trivial
    · split
      · trivial
      · exact h
  | addDevice d flags => simp only [hostCall, hostAdd, hlife, if_true, NextHas]
  | begin => simp only [hostCall, hostBegin, hlife, if_true, NextHas]
  | tick =>
    simp only [hostCall, hostTick, hlife, ne_eq, not_true, if_false]
    split
    · exact h
    · trivial

theorem takeMove_life (s : State) : (takeMove s).life = s.life := by
  unfold takeMove
  split <;> rfl

theorem nextHas_rules_step (hready : Ready s) : NextHas (RulesKept s) (step s) := by
  by_cases hy : AtYield s
  · obtain ⟨y, hstep⟩ := step_of_atYield hy
    have hP := keptByOperations_roleKept s
    have taken := holds_takeMove hP (kept_refl s)
    have begun := (takeMove_life s).trans hready.1
    rw [hstep]
    exact nextHas_of_roleKept (nextHas_runMove hP y _ (nextHas_roleKept_hostCall begun taken) taken)
  · obtain ⟨i, hstep⟩ | hstep | ⟨e, hstep⟩ | ⟨p, rest, hseq, hstep⟩ := step_cases_of_not_atYield hy
    · rw [hstep]
      exact nextHas_rules_exec i
    · rw [hstep]
      exact rulesKept_of_roleKept (kept_epyxReset (s := s.pop) (kept_refl s))
    · rw [hstep]
      trivial
    · rw [hstep]
      exact nextHas_rules_runPos hready hseq

/-- Settles O31: a step keeps mode and selection (`RoleKept`), but for the captures under ATN, the role actions, RESET
and the polls of ATN, each of which meets its rule. -/
theorem modeAndSelectionChangeOnlyByTheirRules : Obligations.ModeAndSelectionChangeOnlyByTheirRules := by
  intro s t hready hstep
  have rules := nextHas_rules_step hready
  rw [hstep] at rules
  obtain ⟨addressed, selected, idle, listening, talking, underAtn⟩ := rules
  exact ⟨addressed, selected, idle, listening, talking, underAtn⟩

end Sys2Proof.Machine

/-! # Proofs for 20_memory: a byte of `buf` reads back as written -/

namespace Sys2Proof.Machine

/-! ## Reading a buffer, after a write and outside its range (20_memory R203, 60_exceptions R1021) -/

theorem memRead_of_size_le {size i : Nat} (m : Memory) (h : size ≤ i) : memRead size m i = .error .bufIndex :=
  if_neg (Nat.not_lt.2 h)

theorem memRead_memSet_same {size i : Nat} (m : Memory) (b : Byte) (h : i < size) :
    memRead size (memSet m i b) i = .ok b := by
  rw [memRead, if_pos h, memGet_memSet_same]

/-- Also where `j` is out of range, or no byte is listed at it. -/
theorem memRead_memSet_other (size : Nat) (m : Memory) {i j : Nat} (b : Byte) (h : j ≠ i) :
    memRead size (memSet m i b) j = memRead size m j := by
  rw [memRead, memRead, memGet_memSet_other m b h]

theorem bufWrite_of_size_le {i : Nat} {s : State} (b : Byte) (h : s.cfg.bufSize ≤ i) :
    bufWrite i b s = .fault .bufIndex :=
  if_neg (Nat.not_lt.2 h)

/-- Settles O11: out of range the write and the read both fault; in range the write is `memSet` on `buf` (`bufWrite_eq`),
and what a read returns after it are the two rules of `memRead` over `memSet`. -/
theorem bufferBytesReadBackAsWritten : Obligations.BufferBytesReadBackAsWritten := by
  intro s i b
  refine ⟨fun hout => ⟨bufWrite_of_size_le b hout, memRead_of_size_le s.buf hout⟩,
    fun hin => ⟨{ s with buf := memSet s.buf i b }, bufWrite_eq b hin, ?same, ?others, rfl⟩⟩
  case same => exact memRead_memSet_same s.buf b hin
  case others => exact fun j hj => memRead_memSet_other s.cfg.bufSize s.buf b hj

end Sys2Proof.Machine

/-! # Proofs for 30_encoding: the decoder and the encoder agree -/

namespace Sys2Proof

/-! ## The byte of each row, decoded (30_encoding R321, R322)

A byte of a row is the row's fixed bits before its operands; the decoder answers that row, or the row it excludes. -/

theorem decodePrimary_reservedLowByte (low : BitVec 5) :
    decodePrimary (reservedLowByte low) = if low = 0 then .nullPrimary else .reservedPrimaryLow low := by
  revert low; decide

theorem decodePrimary_listenByte (addr : BitVec 5) :
    decodePrimary (listenByte addr) = if addr = 31 then .unlisten else .listen addr := by
  revert addr; decide

theorem decodePrimary_talkByte (addr : BitVec 5) :
    decodePrimary (talkByte addr) = if addr = 31 then .untalk else .talk addr := by
  revert addr; decide

theorem decodePrimary_reserved60Byte (low : BitVec 5) :
    decodePrimary (reserved60Byte low) = .reservedPrimary60 low := by
  revert low; decide

theorem decodePrimary_reserved80Byte (low : BitVec 7) :
    decodePrimary (reserved80Byte low) = .reservedPrimary80 low := by
  revert low; decide

theorem decodeSecondary_dataByte (chan : BitVec 4) : decodeSecondary (dataByte chan) = .dataCh chan := by
  revert chan; decide

theorem decodeSecondary_closeByte (chan : BitVec 4) :
    decodeSecondary (closeByte chan) = if chan = 15 then .close15Ignored else .closeCh chan := by
  revert chan; decide

theorem decodeSecondary_openByte (chan : BitVec 4) : decodeSecondary (openByte chan) = .openCh chan := by
  revert chan; decide

theorem decodeSecondary_secondary03Byte (grp : BitVec 2) (chan : BitVec 4) :
    decodeSecondary (secondary03Byte grp chan) = .reservedSecondary03 grp chan := by
  revert grp chan; decide

theorem decodeSecondary_secondary45Byte (grp : BitVec 1) (chan : BitVec 4) :
    decodeSecondary (secondary45Byte grp chan) = .reservedSecondary45 grp chan := by
  revert grp chan; decide

theorem decodeSecondary_secondary7Byte (chan : BitVec 4) :
    decodeSecondary (secondary7Byte chan) = .reservedSecondary7 chan := by
  revert chan; decide

theorem decodeSecondary_secondary8BByte (grp : BitVec 2) (chan : BitVec 4) :
    decodeSecondary (secondary8BByte grp chan) = .reservedSecondary8B grp chan := by
  revert grp chan; decide

theorem decodeSecondary_secondaryCDByte (grp : BitVec 1) (chan : BitVec 4) :
    decodeSecondary (secondaryCDByte grp chan) = .reservedSecondaryCD grp chan := by
  revert grp chan; decide

theorem decodeEpyxSum_unknown {sum : Byte} (h : knownSums.contains sum = false) :
    decodeEpyxSum sum = .epyxUnknownSum sum := by
  simp only [knownSums, List.contains_eq_mem, List.mem_cons, List.not_mem_nil, or_false, decide_eq_false_iff_not,
    not_or] at h
  simp only [decodeEpyxSum, h, if_false]

theorem decodeCmd15_memWrite (addr : BitVec 16) {len : Byte} {payload : List Byte} (h : payload.length ≤ len.toNat) :
    decodeCmd15 (encode (.memWrite addr len payload)) = .ok (.memWrite addr len payload) := by
  show Except.ok (Instr.memWrite (addr16 (loByte addr) (hiByte addr)) len (payload.take len.toNat)) = _
  rw [addr16_parts, List.take_of_length_le h]

/-- Settles O1: each row's own equation of its decoder, where `wellFormed` rules out what the row excludes. -/
theorem encodedCommandsDecodeToThemselves : Obligations.EncodedCommandsDecodeToThemselves := by
  intro i hwf
  cases i with
  | nullPrimary | unlisten | untalk | close15Ignored => rfl
  | listen addr => exact congrArg Except.ok ((decodePrimary_listenByte addr).trans (if_neg (bne_iff_ne.1 hwf)))
  | talk addr => exact congrArg Except.ok ((decodePrimary_talkByte addr).trans (if_neg (bne_iff_ne.1 hwf)))
  | reservedPrimaryLow low =>
    exact congrArg Except.ok ((decodePrimary_reservedLowByte low).trans (if_neg (bne_iff_ne.1 hwf)))
  | reservedPrimary60 low => exact congrArg Except.ok (decodePrimary_reserved60Byte low)
  | reservedPrimary80 low => exact congrArg Except.ok (decodePrimary_reserved80Byte low)
  | dataCh chan => exact congrArg Except.ok (decodeSecondary_dataByte chan)
  | closeCh chan => exact congrArg Except.ok ((decodeSecondary_closeByte chan).trans (if_neg (bne_iff_ne.1 hwf)))
  | openCh chan => exact congrArg Except.ok (decodeSecondary_openByte chan)
  | reservedSecondary03 grp chan => exact congrArg Except.ok (decodeSecondary_secondary03Byte grp chan)
  | reservedSecondary45 grp chan => exact congrArg Except.ok (decodeSecondary_secondary45Byte grp chan)
  | reservedSecondary7 chan => exact congrArg Except.ok (decodeSecondary_secondary7Byte chan)
  | reservedSecondary8B grp chan => exact congrArg Except.ok (decodeSecondary_secondary8BByte grp chan)
  | reservedSecondaryCD grp chan => exact congrArg Except.ok (decodeSecondary_secondaryCDByte grp chan)
  | xq | xz | xfPlus | xfMinus => rfl
  | memWrite addr len payload => exact decodeCmd15_memWrite addr (decide_eq_true_eq.mp hwf)
  | memExecute addr => exact congrArg (fun a => Except.ok (Instr.memExecute a)) (addr16_parts addr)
  | epyxLoadV1 | epyxLoadV2 | epyxLoadV3 | epyxSector0B | epyxSectorB8 | epyxSectorBA => rfl
  | epyxUnknownSum sum => exact congrArg Except.ok (decodeEpyxSum_unknown ((Bool.not_eq_true' _).mp hwf))
  | epyxHdr len => rfl

/-- Settles O3: each word is the encoding of its command, which O1 reads back. -/
theorem sampleWordsOfTheTableDecode : Obligations.SampleWordsOfTheTableDecode :=
  have reads := encodedCommandsDecodeToThemselves
  ⟨reads (.listen 8) rfl, reads (.listen 30) rfl, reads .unlisten rfl, reads (.talk 8) rfl, reads .untalk rfl,
    reads .nullPrimary rfl, reads (.dataCh 1) rfl, reads .close15Ignored rfl, reads (.closeCh 1) rfl,
    reads (.openCh 0) rfl, reads .xq rfl, reads .xfMinus rfl, reads (.memExecute 0x01A9) rfl, reads .epyxLoadV2 rfl,
    reads (.epyxHdr 4) rfl⟩

/-! ## Every byte is in a row (30_encoding R321, R322) -/

/-- The bytes of the primary rows, by their fixed bits. -/
inductive PrimaryRow : Byte → Prop where
  | low (low : BitVec 5) : PrimaryRow (reservedLowByte low)
  | listen (addr : BitVec 5) : PrimaryRow (listenByte addr)
  | talk (addr : BitVec 5) : PrimaryRow (talkByte addr)
  | reserved60 (low : BitVec 5) : PrimaryRow (reserved60Byte low)
  | reserved80 (low : BitVec 7) : PrimaryRow (reserved80Byte low)

/-- The bytes of the secondary rows, by their fixed bits. -/
inductive SecondaryRow : Byte → Prop where
  | group03 (grp : BitVec 2) (chan : BitVec 4) : SecondaryRow (secondary03Byte grp chan)
  | group45 (grp : BitVec 1) (chan : BitVec 4) : SecondaryRow (secondary45Byte grp chan)
  | dataCh (chan : BitVec 4) : SecondaryRow (dataByte chan)
  | group7 (chan : BitVec 4) : SecondaryRow (secondary7Byte chan)
  | group8B (grp : BitVec 2) (chan : BitVec 4) : SecondaryRow (secondary8BByte grp chan)
  | groupCD (grp : BitVec 1) (chan : BitVec 4) : SecondaryRow (secondaryCDByte grp chan)
  | closeCh (chan : BitVec 4) : SecondaryRow (closeByte chan)
  | openCh (chan : BitVec 4) : SecondaryRow (openByte chan)

theorem primaryGroup_cases (hi : BitVec 3) :
    hi = 0b000 ∨ hi = 0b001 ∨ hi = 0b010 ∨ hi = 0b011 ∨ ∃ mid : BitVec 2, hi = 0b1#1 ++ mid := by
  revert hi; decide

theorem secondaryGroup_cases (hi : BitVec 4) :
    (∃ grp : BitVec 2, hi = 0b00#2 ++ grp) ∨ (∃ grp : BitVec 1, hi = 0b010#3 ++ grp) ∨ hi = 0x6 ∨ hi = 0x7 ∨
      (∃ grp : BitVec 2, hi = 0b10#2 ++ grp) ∨ (∃ grp : BitVec 1, hi = 0b110#3 ++ grp) ∨ hi = 0xE ∨ hi = 0xF := by
  revert hi; decide

theorem reserved80Byte_append (mid : BitVec 2) (lo : BitVec 5) :
    reserved80Byte (mid ++ lo) = (0b1#1 ++ mid) ++ lo :=
  BitVec.append_assoc'

theorem primaryRow (p : Byte) : PrimaryRow p := by
  have parts : p.extractLsb' 5 3 ++ addrField p = p := BitVec.extractLsb'_append_extractLsb' (w := 3) (len := 5)
  rw [← parts]
  obtain hi | hi | hi | hi | ⟨mid, hi⟩ := primaryGroup_cases (p.extractLsb' 5 3) <;> rw [hi]
  · exact .low _
  · exact .listen _
  · exact .talk _
  · exact .reserved60 _
  · exact reserved80Byte_append mid _ ▸ .reserved80 _

theorem secondaryRow (b : Byte) : SecondaryRow b := by
  have parts : b.extractLsb' 4 4 ++ chanField b = b := BitVec.extractLsb'_append_extractLsb' (w := 4) (len := 4)
  rw [← parts]
  obtain ⟨grp, hi⟩ | ⟨grp, hi⟩ | hi | hi | ⟨grp, hi⟩ | ⟨grp, hi⟩ | hi | hi :=
    secondaryGroup_cases (b.extractLsb' 4 4) <;> rw [hi]
  · exact .group03 grp _
  · exact .group45 grp _
  · exact .dataCh _
  · exact .group7 _
  · exact .group8B grp _
  · exact .groupCD grp _
  · exact .closeCh _
  · exact .openCh _

/-! ## What a decoder can answer -/

/-- `i` is the well-formed command of the format `f` with the encoding `word`. -/
structure IsCommand (f : Format) (word : List Byte) (i : Instr) : Prop where
  format : formatOf i = f
  wellFormed : i.wellFormed = true
  encoded : encode i = word

/-- A row that excludes a word: `i` has the word, and `j` every other one of the row. -/
theorem IsCommand.ite {f : Format} {word : List Byte} {i j : Instr} {excluded : Prop} [Decidable excluded]
    (hi : excluded → IsCommand f word i) (hj : ¬ excluded → IsCommand f word j) :
    IsCommand f word (if excluded then i else j) := by
  split
  · next h => exact hi h
  · next h => exact hj h

theorem isCommand_decodePrimary (p : Byte) : IsCommand .pri [p] (decodePrimary p) := by
  cases primaryRow p with
  | low low =>
    rw [decodePrimary_reservedLowByte low]
    exact .ite (fun h => ⟨rfl, rfl, h ▸ rfl⟩) fun h => ⟨rfl, bne_iff_ne.2 h, rfl⟩
  | listen addr =>
    rw [decodePrimary_listenByte addr]
    exact .ite (fun h => ⟨rfl, rfl, h ▸ rfl⟩) fun h => ⟨rfl, bne_iff_ne.2 h, rfl⟩
  | talk addr =>
    rw [decodePrimary_talkByte addr]
    exact .ite (fun h => ⟨rfl, rfl, h ▸ rfl⟩) fun h => ⟨rfl, bne_iff_ne.2 h, rfl⟩
  | reserved60 low => exact decodePrimary_reserved60Byte low ▸ ⟨rfl, rfl, rfl⟩
  | reserved80 low => exact decodePrimary_reserved80Byte low ▸ ⟨rfl, rfl, rfl⟩

theorem isCommand_decodeSecondary (b : Byte) : IsCommand .sec [b] (decodeSecondary b) := by
  cases secondaryRow b with
  | group03 grp chan => exact decodeSecondary_secondary03Byte grp chan ▸ ⟨rfl, rfl, rfl⟩
  | group45 grp chan => exact decodeSecondary_secondary45Byte grp chan ▸ ⟨rfl, rfl, rfl⟩
  | dataCh chan => exact decodeSecondary_dataByte chan ▸ ⟨rfl, rfl, rfl⟩
  | group7 chan => exact decodeSecondary_secondary7Byte chan ▸ ⟨rfl, rfl, rfl⟩
  | group8B grp chan => exact decodeSecondary_secondary8BByte grp chan ▸ ⟨rfl, rfl, rfl⟩
  | groupCD grp chan => exact decodeSecondary_secondaryCDByte grp chan ▸ ⟨rfl, rfl, rfl⟩
  | closeCh chan =>
    rw [decodeSecondary_closeByte chan]
    exact .ite (fun h => ⟨rfl, rfl, h ▸ rfl⟩) fun h => ⟨rfl, bne_iff_ne.2 h, rfl⟩
  | openCh chan => exact decodeSecondary_openByte chan ▸ ⟨rfl, rfl, rfl⟩

theorem isCommand_decodeEpyxSum (sum : Byte) : IsCommand .epyxSum [sum] (decodeEpyxSum sum) := by
  by_cases h : knownSums.contains sum = true
  · simp only [knownSums, List.contains_eq_mem, List.mem_cons, List.not_mem_nil, or_false, decide_eq_true_eq] at h
    obtain rfl | rfl | rfl | rfl | rfl | rfl := h <;> exact ⟨rfl, rfl, rfl⟩
  · have unknown := Bool.eq_false_of_not_eq_true h
    rw [decodeEpyxSum_unknown unknown]
    exact ⟨rfl, (Bool.not_eq_true' _).mpr unknown, rfl⟩

theorem isCommand_memWrite (lo hi len : Byte) (d : List Byte) :
    IsCommand .cmd15 ([0x4D, 0x2D, 0x57, lo, hi, len] ++ d.take len.toNat)
      (.memWrite (addr16 lo hi) len (d.take len.toNat)) where
  format := rfl
  wellFormed := decide_eq_true (List.length_take_le _ _)
  encoded := by simp only [encode, loByte_addr16, hiByte_addr16]

theorem isCommand_memExecute (lo hi : Byte) :
    IsCommand .cmd15 [0x4D, 0x2D, 0x45, lo, hi] (.memExecute (addr16 lo hi)) where
  format := rfl
  wellFormed := rfl
  encoded := by simp only [encode, loByte_addr16, hiByte_addr16]

/-- A captured string is a command's word and bytes after it, which are ignored (30_encoding R303 to R305). -/
theorem isCommand_of_decodeCmd15 {bytes : List Byte} {i : Instr} (h : decodeCmd15 bytes = .ok i) :
    ∃ word, word <+: bytes ∧ IsCommand .cmd15 word i := by
  unfold decodeCmd15 at h
  split at h <;> cases h
  case h_2 rest => exact ⟨[0x58, 0x51], ⟨rest, rfl⟩, rfl, rfl, rfl⟩
  case h_3 rest => exact ⟨[0x58, 0x5A], ⟨rest, rfl⟩, rfl, rfl, rfl⟩
  case h_4 rest => exact ⟨[0x58, 0x46, 0x2B], ⟨rest, rfl⟩, rfl, rfl, rfl⟩
  case h_5 rest => exact ⟨[0x58, 0x46, 0x2D], ⟨rest, rfl⟩, rfl, rfl, rfl⟩
  case h_6 lo hi len d =>
    exact ⟨_, (List.prefix_append_right_inj _).2 (List.take_prefix _ d), isCommand_memWrite lo hi len d⟩
  case h_7 lo hi rest => exact ⟨_, ⟨rest, rfl⟩, isCommand_memExecute lo hi⟩

/-- The first byte of a one-byte format is the whole word. -/
theorem isCommand_of_decode {f : Format} {bytes : List Byte} {i : Instr} (h : decode f bytes = .ok i) :
    ∃ word, word <+: bytes ∧ IsCommand f word i := by
  by_cases hf : f = .cmd15
  · subst hf
    exact isCommand_of_decodeCmd15 h
  · obtain ⟨b, rest, rfl, hi⟩ := decode_one hf h
    refine ⟨[b], ⟨rest, rfl⟩, ?_⟩
    cases f with
    | pri => exact hi ▸ isCommand_decodePrimary b
    | sec => exact hi ▸ isCommand_decodeSecondary b
    | cmd15 => exact absurd rfl hf
    | epyxSum => exact hi ▸ isCommand_decodeEpyxSum b
    | epyxHdr => exact hi ▸ ⟨rfl, rfl, rfl⟩

/-- Settles O2: what each decoder answers is the command of a word that starts the bytes. -/
theorem decodedCommandsStartTheirBytes : Obligations.DecodedCommandsStartTheirBytes := by
  intro f bytes i h
  obtain ⟨word, starts, isCommand⟩ := isCommand_of_decode h
  exact ⟨isCommand.format, isCommand.wellFormed, isCommand.encoded ▸ starts⟩

end Sys2Proof

/-! # Proofs for 30_encoding: 0x00 and the reserved bytes as primaries -/

namespace Sys2Proof.Machine

variable {s : State}

/-! ## A primary under ATN (41_iec_core R520) -/

/-- The acknowledge of a byte under ATN that is no new secondary. -/
theorem rxAck_underAtn (rx : Byte) (eoi : Bool) (hatn : s.fl.atnActive = true) :
    rxAck rx eoi false s = .next (setData true s) := by
  simp [rxAck, hatn]

/-- While no primary is captured, a byte under ATN is decoded as one. -/
theorem rxByte_primary (rx : Byte) (eoi : Bool) (hatn : s.fl.atnActive = true) (hpri : s.addr.primary = 0x00) :
    rxByte rx eoi s = .next (s.push [.decode (.primary rx)]) := by
  simp [rxByte, hatn, hpri]

theorem exec_nullPrimary_underAtn (hatn : s.fl.atnActive = true) :
    exec .nullPrimary s = .next (setData true s.pop) :=
  (if_pos hatn).trans (rxAck_underAtn (s := s.pop) 0x00 false hatn)

theorem exec_unlisten_underAtn (hatn : s.fl.atnActive = true) :
    exec .unlisten s = .next (setData true (setPrimary 0x3F s.pop)) :=
  (if_pos hatn).trans (rxAck_underAtn (s := setPrimary 0x3F s.pop) 0x3F false hatn)

theorem exec_untalk_underAtn (hatn : s.fl.atnActive = true) :
    exec .untalk s = .next (setData true (setPrimary 0x5F s.pop)) :=
  (if_pos hatn).trans (rxAck_underAtn (s := setPrimary 0x5F s.pop) 0x5F false hatn)

/-- LISTEN and TALK record the byte whether a device's address matches or not. -/
theorem captureAddress_records (rx : Byte) (a : BitVec 5) (s : State) :
    ∃ v, captureAddress rx a s = .next v ∧ v.addr.primary = rx := by
  unfold captureAddress
  dsimp only
  split <;> exact ⟨_, rfl, rfl⟩

/-- Under ATN every primary but 0x00 is recorded, acknowledged or not. -/
theorem exec_records_primary {i : Instr} {rx : Byte} (hi : IsCommand .pri [rx] i) (hrx : rx ≠ 0x00)
    (hatn : s.fl.atnActive = true) : ∃ v, exec i s = .next v ∧ v.addr.primary = rx := by
  obtain ⟨hformat, -, hword⟩ := hi
  cases i <;> cases hformat <;> obtain rfl := List.singleton_inj.1 hword
  case nullPrimary => exact absurd rfl hrx
  case unlisten => exact ⟨_, exec_unlisten_underAtn hatn, rfl⟩
  case untalk => exact ⟨_, exec_untalk_underAtn hatn, rfl⟩
  case listen addr =>
    obtain ⟨v, hnext, hprimary⟩ := captureAddress_records (listenByte addr) addr s.pop
    exact ⟨v, (if_pos hatn).trans hnext, hprimary⟩
  case talk addr =>
    obtain ⟨v, hnext, hprimary⟩ := captureAddress_records (talkByte addr) addr s.pop
    exact ⟨v, (if_pos hatn).trans hnext, hprimary⟩
  case reservedPrimaryLow | reservedPrimary60 | reservedPrimary80 => exact ⟨_, if_pos hatn, rfl⟩

theorem isCommand_of_decode_primary {rx : Byte} {i : Instr} (h : decode .pri [rx] = .ok i) : IsCommand .pri [rx] i :=
  Except.ok.inj h ▸ isCommand_decodePrimary rx

/-- Settles O25: 0x00 is acknowledged by DATA alone, so the next byte is decoded as a primary, and recorded. -/
theorem nullPrimaryIsAcknowledgedNotRecorded : Obligations.NullPrimaryIsAcknowledgedNotRecorded := by
  intro s hatn hpri
  refine ⟨_, exec_nullPrimary_underAtn hatn, rfl, fun rx eoi i u hrx hdecode hfl haddr => ?_⟩
  have uAtn : u.fl.atnActive = true := hfl ▸ hatn
  have uPrimary : u.addr.primary = 0x00 := haddr ▸ hpri
  exact ⟨rxByte_primary rx eoi uAtn uPrimary, exec_records_primary (isCommand_of_decode_primary hdecode) hrx uAtn⟩

/-! ## The reserved primaries (30_encoding R340) -/

/-- The bytes that R340 reserves. -/
def ReservedByte (rx : Byte) : Prop := 0x01 ≤ rx ∧ rx ≤ 0x1F ∨ 0x60 ≤ rx

theorem not_reservedByte_listenByte (addr : BitVec 5) : ¬ ReservedByte (listenByte addr) := by
  unfold ReservedByte
  revert addr; decide

theorem not_reservedByte_talkByte (addr : BitVec 5) : ¬ ReservedByte (talkByte addr) := by
  unfold ReservedByte
  revert addr; decide

/-- The two meanings of a reserved primary, by `atn_active`: recorded and not acknowledged, and not for us. -/
theorem exec_of_reservedByte {i : Instr} {rx : Byte} (hi : IsCommand .pri [rx] i) (hrx : ReservedByte rx) :
    exec i s = if s.fl.atnActive then .next (setPrimary rx s.pop) else .next (goIdle s.pop) := by
  obtain ⟨hformat, -, hword⟩ := hi
  cases i <;> cases hformat <;> obtain rfl := List.singleton_inj.1 hword
  case nullPrimary => exact absurd hrx (by unfold ReservedByte; decide)
  case unlisten => exact absurd hrx (not_reservedByte_listenByte 31)
  case untalk => exact absurd hrx (not_reservedByte_talkByte 31)
  case listen addr => exact absurd hrx (not_reservedByte_listenByte addr)
  case talk addr => exact absurd hrx (not_reservedByte_talkByte addr)
  case reservedPrimaryLow | reservedPrimary60 | reservedPrimary80 => rfl

/-- Settles O26: a reserved byte decodes to a reserved primary, whose meaning `atn_active` chooses. -/
theorem reservedPrimaryIsNotAcknowledged : Obligations.ReservedPrimaryIsNotAcknowledged := by
  intro s i rx hdecode hrx
  have meaning := exec_of_reservedByte (s := s) (isCommand_of_decode_primary hdecode) hrx
  exact ⟨fun hatn _ => meaning.trans (if_pos hatn),
    fun hrise => meaning.trans (if_neg (Bool.eq_false_iff.1 hrise))⟩

end Sys2Proof.Machine

/-! # Proofs for 40_timing: line levels, the parallel bus, and the tolerance of a threshold -/

namespace Sys2Proof.Machine

/-! ## The level of a line (40_timing R404, R406, 20_memory R205) -/

section Lines

variable {s : State}

theorem readLine_eq_low_iff {l : Line} : readLine s l = .low ↔ lineLow s l = true := by
  unfold readLine
  split <;> simp [*]

theorem readLine_atn : readLine s .atn = .low ↔ s.env.drives.hostAtn = true := readLine_eq_low_iff

theorem readLine_clk : readLine s .clk = .low ↔
    s.drv.clk = true ∨ s.env.drives.hostClk = true ∨ s.env.drives.othersClk = true := by
  simp only [readLine_eq_low_iff, lineLow, Bool.or_eq_true, or_assoc]

theorem readLine_data : readLine s .data = .low ↔
    s.drv.data = true ∨ s.env.drives.hostData = true ∨ s.env.drives.othersData = true ∨
      (s.cfg.hasCtrlPin = true ∧ s.drv.ctrlOn = true ∧ readLine s .atn = .low) := by
  simp only [readLine_eq_low_iff, lineLow, Bool.or_eq_true, Bool.and_eq_true, or_assoc, and_assoc]

theorem readLine_par {k : Fin 8} : readLine s (.par k) = .low ↔ s.cfg.hasParallel = true ∧
    ((s.drv.parOutMode = true ∧ s.drv.parOut.getLsbD k = false) ∨ s.env.drives.par.getLsbD k = true) := by
  simp only [readLine_eq_low_iff, lineLow, Bool.and_eq_true, Bool.or_eq_true, Bool.not_eq_true']

theorem readLine_ht : readLine s .ht = .low ↔
    s.cfg.hasParallel = true ∧ (s.drv.ht = true ∨ s.env.drives.hostHt = true) := by
  simp only [readLine_eq_low_iff, lineLow, Bool.and_eq_true, Bool.or_eq_true]

theorem readLine_hr : readLine s .hr = .low ↔ s.cfg.hasParallel = true ∧ s.env.drives.hostHr = true := by
  simp only [readLine_eq_low_iff, lineLow, Bool.and_eq_true]

theorem readLine_reset : readLine s .reset = .low ↔ s.cfg.hasResetPin = true ∧ s.env.drives.reset = true := by
  simp only [readLine_eq_low_iff, lineLow, Bool.and_eq_true]

/-! ## The parallel bus (40_timing R417) -/

/-- What the engine alone puts on the parallel bus: its byte in output mode, every pin released in input mode. -/
def parDriven (s : State) : Byte := if s.drv.parOutMode then s.drv.parOut else BitVec.allOnes 8

/-- With the cable, each outside driver that is low turns its bit of the engine's byte to 0. -/
theorem parRead_eq (hpar : s.cfg.hasParallel = true) : parRead s = parDriven s &&& ~~~s.env.drives.par := by
  refine BitVec.eq_of_getElem_eq fun k hk => ?_
  have pin : (parRead s)[k] = !lineLow s (.par ⟨k, hk⟩) := BitVec.getElem_ofFnLE _ k hk
  rw [pin, BitVec.getElem_and, BitVec.getElem_not, parDriven]
  by_cases hout : s.drv.parOutMode = true
  · simp [lineLow, hpar, hout, BitVec.getLsbD_eq_getElem hk]
  · rw [if_neg hout, BitVec.getElem_allOnes]
    simp [lineLow, hpar, hout, BitVec.getLsbD_eq_getElem hk]

theorem parRead_parInput (hpar : s.cfg.hasParallel = true) : parRead (parInput s) = ~~~s.env.drives.par :=
  (parRead_eq (s := parInput s) hpar).trans BitVec.allOnes_and

theorem parRead_parOutput (hpar : s.cfg.hasParallel = true) (b : Byte) :
    parRead (parOutput b s) = b &&& ~~~s.env.drives.par := by
  rw [parOutput, if_pos hpar]
  exact parRead_eq hpar

end Lines

/-- Settles O12: the parallel bus by `parRead_eq`, each line by its own rule. -/
theorem lineLevelsAreTheWiredAndOfTheDrivers : Obligations.LineLevelsAreTheWiredAndOfTheDrivers := fun _ =>
  ⟨fun hpar => ⟨parRead_parInput hpar, parRead_parOutput hpar⟩,
    readLine_atn, readLine_clk, readLine_data, fun _ => readLine_par, readLine_ht, readLine_hr, readLine_reset⟩

/-! ## `elapsed` across the wrap of `micros()` (40_timing R409, R414) -/

section Time

variable {s : State} {start : Micros}

theorem elapsed_of_micros_eq {d : Nat} (hd : d < 2 ^ 32) (h : s.env.micros = start + BitVec.ofNat 32 d) :
    elapsed s start = d := by
  have diff : s.env.micros - start = BitVec.ofNat 32 d := by rw [h, add_sub_cancel_left]
  rw [elapsed, diff, BitVec.toNat_ofNat, Nat.mod_eq_of_lt hd]

theorem elapsed_advanceClock {dt : Micros} (h : elapsed s start + dt.toNat < 2 ^ 32) :
    elapsed (advanceClock dt s) start = elapsed s start + dt.toNat := by
  have diff : s.env.micros + dt - start = s.env.micros - start + dt := add_sub_right_comm _ _ _
  calc elapsed (advanceClock dt s) start
      = (s.env.micros - start + dt).toNat := congrArg BitVec.toNat diff
    _ = elapsed s start + dt.toNat := BitVec.toNat_add_of_lt h

end Time

/-! ## The places of a threshold's band (40_timing R412) -/

section Band

variable {c : Cfg} {e half : Nat}

theorem timeUp_iff {a : Answer} :
    timeUp c a e half = true ↔ (half + 1) / 2 + min a.jitter (bandLast c half) ≤ e + c.tTol :=
  decide_eq_true_iff

/-- The band ends at its last whole microsecond, or where it has none, at the odd half microsecond rounded up. -/
theorem bandEnd_eq : bandEnd c half = if c.tTol = 0 then (half + 1) / 2 else half / 2 + c.tTol := by
  unfold bandEnd bandLast
  split <;> omega

/-- A threshold can be over once the first place of its band is reached. -/
theorem exists_timeUp_iff : (∃ a, timeUp c a e half = true) ↔ (half + 1) / 2 ≤ e + c.tTol := by
  constructor
  · rintro ⟨a, h⟩
    exact le_trans (Nat.le_add_right _ _) (timeUp_iff.1 h)
  · intro h
    exact ⟨{ jitter := 0 }, timeUp_iff.2 (by simpa using h)⟩

/-- A threshold must be over once the last place of its band is reached, and not before. -/
theorem forall_timeUp_iff : (∀ a, timeUp c a e half = true) ↔ bandEnd c half ≤ e := by
  have bandEnd_le : bandEnd c half ≤ e ↔ (half + 1) / 2 + bandLast c half ≤ e + c.tTol := Nat.sub_le_iff_le_add
  rw [bandEnd_le]
  constructor
  · intro h
    simpa using timeUp_iff.1 (h { jitter := bandLast c half })
  · exact fun h a => timeUp_iff.2 (le_trans (Nat.add_le_add_left (min_le_right _ _) _) h)

theorem timeUp_after_band (h : half + 2 * c.tTol ≤ 2 * e) (a : Answer) : timeUp c a e half = true := by
  refine forall_timeUp_iff.2 ?_ a
  rw [bandEnd_eq]
  split <;> omega

theorem timeUp_before_band (h : 2 * (e + c.tTol) < half) (a : Answer) : timeUp c a e half = false := by
  refine Bool.eq_false_iff.2 fun htrue => ?_
  have := exists_timeUp_iff.1 ⟨a, htrue⟩
  omega

theorem exists_timeUp_of_le (h : half ≤ 2 * (e + c.tTol)) : ∃ a, timeUp c a e half = true :=
  exists_timeUp_iff.2 (by omega)

theorem exists_not_timeUp_of_lt (h : 2 * e + half % 2 < half + 2 * c.tTol) : ∃ a, timeUp c a e half = false := by
  have early : ¬ bandEnd c half ≤ e := by
    rw [bandEnd_eq]
    split <;> omega
  simpa using mt forall_timeUp_iff.1 early

end Band

/-! ## The clock at a timed wait (40_timing R412, R413, R418, assumption log 7) -/

section Clock

variable {s : State} {start : Micros} {half : Nat}

/-- The engine waits at `y` for `half` half microseconds from `start`, or at most so long: the clock has room up to the
end of that band. -/
def WaitsFor (y : Yield) (start : Micros) (half : Nat) : Prop :=
  ∀ s, clockRoom y s = some (bandEnd s.cfg half - elapsed s start)

theorem waitsFor_waitUntil : WaitsFor (.waitUntil half start) start half := fun _ => rfl

theorem waitsFor_waitUs {t : Nat} {strict : Bool} : WaitsFor (.waitUs t start strict) start (2 * t) := fun _ => rfl

theorem waitsFor_waitFor {l : Line} {lvl : Level} {t : Nat} {strict : Bool} (ht : t ≠ 0) :
    WaitsFor (.waitFor l lvl t start strict) start (2 * t) := fun _ => if_neg ht

theorem waitsFor_waitHr {lvl prev : Level} {t : Nat} {strict : Bool} (ht : t ≠ 0) :
    WaitsFor (.waitHr lvl t start prev strict) start (2 * t) := fun _ => if_neg ht

/-- At a yield point a clock move that comes next in the feed is taken from it and made. -/
theorem step_clockMove {y : Yield} {rest : List Pos} {dt : Micros} {more : List Move}
    (hseq : s.seq = .yield y :: rest) (hfeed : s.env.feed = .clock dt :: more) :
    step s = .next (advanceClock (clockStep y dt { s with env := { s.env with feed := more } })
      { s with env := { s.env with feed := more } }) := by
  simp only [step, advance, hseq, yieldMove, nextMove, takeMove, hfeed, runMove]

theorem clockStep_toNat {y : Yield} (hy : WaitsFor y start half) (hend : bandEnd s.cfg half < 2 ^ 32) (dt : Micros) :
    (clockStep y dt s).toNat = min dt.toNat (bandEnd s.cfg half - elapsed s start) := by
  have fits : min dt.toNat (bandEnd s.cfg half - elapsed s start) < 2 ^ 32 :=
    (min_le_right _ _).trans_lt ((Nat.sub_le _ _).trans_lt hend)
  rw [clockStep, hy s]
  exact (BitVec.toNat_ofNat _ _).trans (Nat.mod_eq_of_lt fits)

/-- Before the end of its band, a clock move at a timed wait ends there at the latest. -/
theorem elapsed_clockStep {y : Yield} (hy : WaitsFor y start half) (hend : bandEnd s.cfg half < 2 ^ 32)
    (hbefore : elapsed s start ≤ bandEnd s.cfg half) (dt : Micros) :
    elapsed (advanceClock (clockStep y dt s) s) start = min (elapsed s start + dt.toNat) (bandEnd s.cfg half) := by
  have moved := clockStep_toNat hy hend dt
  rw [elapsed_advanceClock (by omega)]
  omega

/-- A clock move at a timed wait changes the clock alone, and ends at the end of the band at the latest. -/
theorem step_clock_within_band {y : Yield} {rest : List Pos} {dt : Micros} {more : List Move}
    (hy : WaitsFor y start half) (hseq : s.seq = .yield y :: rest) (hfeed : s.env.feed = .clock dt :: more)
    (hend : bandEnd s.cfg half < 2 ^ 32) (hbefore : elapsed s start ≤ bandEnd s.cfg half) :
    ∃ u, step s = .next u ∧ elapsed u start = min (elapsed s start + dt.toNat) (bandEnd s.cfg half) ∧
      u = { s with env := { s.env with feed := more, micros := u.env.micros } } :=
  ⟨_, step_clockMove hseq hfeed,
    elapsed_clockStep (s := { s with env := { s.env with feed := more } }) hy hend hbefore dt, rfl⟩

end Clock

/-- Settles O13: `elapsed` by subtraction modulo 2^32, a threshold by its first and last place, and the clock by
`step_clock_within_band` for the wait at hand. -/
theorem thresholdsHoldWithinTheTolerance : Obligations.ThresholdsHoldWithinTheTolerance := by
  refine ⟨fun s start d => elapsed_of_micros_eq, fun c e half => ⟨timeUp_after_band, timeUp_before_band,
    exists_timeUp_of_le, exists_not_timeUp_of_lt⟩, ?clock⟩
  intro s rest l lvl prev t half last start dt strict more hfeed hlast hbound hbefore hwait
  obtain rfl : last = bandEnd s.cfg half := hlast.trans bandEnd_eq.symm
  have timed : ∃ y, WaitsFor y start half ∧ s.seq = .yield y :: rest := by
    obtain hseq | ⟨rfl, hseq | ⟨ht, hseq | hseq⟩⟩ := hwait
    · exact ⟨_, waitsFor_waitUntil, hseq⟩
    · exact ⟨_, waitsFor_waitUs, hseq⟩
    · exact ⟨_, waitsFor_waitFor ht, hseq⟩
    · exact ⟨_, waitsFor_waitHr ht, hseq⟩
  obtain ⟨y, hy, hseq⟩ := timed
  obtain ⟨u, hstep, helapsed, hrest⟩ := step_clock_within_band hy hseq hfeed hbound hbefore
  exact ⟨u, hstep, helapsed.trans_le (min_le_right _ _), fun hroom => helapsed.trans (min_eq_left hroom), hrest⟩

end Sys2Proof.Machine

/-! # Proofs for 41_iec_core: the table after `begin()`

Two things go through a step. The values that only construction and `begin()` write go through every shared operation,
so `KeptByOperations` carries them through every routine. That no statement of construction is ever put back on the
sequencer is a fact about what each routine pushes, and has its own pass over the routines. -/

namespace Sys2Proof.Machine

variable {s t : State}

/-! ## What only construction and `begin()` write (41_iec_core R504, 10_state R160) -/

/-- The table without its flags, the engine's number, its registry, and how far the main loop has come. -/
abbrev Bound := List (Bool × BitVec 5 × Handle × BitVec 12) × Nat × List RegistrySlot × Life

def bound (s : State) : Bound := (tableOf s, s.engine, s.registry, s.life)

theorem bound_atnFall (s : State) : bound (atnFall s) = bound s := by
  have table : tableOf (atnFall s) = tableOf s := by
    simp only [tableOf, atnFall, override_dev]
    exact map_identity_map _ _ Entry.identity_dropTransient
  simp [bound, table]

theorem bound_atnIsr (s : State) : bound (atnIsr s) = bound s := by
  unfold atnIsr
  split
  · rfl
  · split
    · rfl
    · split
      · exact bound_atnFall s
      · rfl

theorem bound_unmaskIrq (s : State) : bound (unmaskIrq s) = bound s := by
  unfold unmaskIrq
  split
  · exact bound_atnIsr _
  · rfl

theorem bound_setFlag (k : Nat) (f : ProtoFlag) (s : State) : bound (s.setFlag k f) = bound s := by simp [bound]

theorem bound_clearFlag (k : Nat) (f : ProtoFlag) (s : State) : bound (s.clearFlag k f) = bound s := by simp [bound]

theorem bound_unwind (kind : ErrKind) (ps : List Pos) (s : State) : bound (unwind kind ps s) = bound s := by
  have translated : ∀ u, bound (onFail kind u) = bound u := fun u => by cases kind <;> rfl
  fun_induction unwind kind ps s with
  | case9 => rfl
  | case10 r s ih => exact ih
  | case11 p r s _ _ _ _ _ _ _ _ _ ih => exact ih
  | _ => exact translated _

theorem bound_unguard (s : State) : bound (unguard s) = bound s := by
  have unmasked : bound (if s.fl.irqMasked then unmaskIrq s else s) = bound s :=
    holds_ite (P := fun t => bound t = bound s) (bound_unmaskIrq s) rfl
  exact holds_ite (P := fun t => bound t = bound s) unmasked unmasked

theorem bound_cmdAppend (b : Byte) (s : State) : bound (cmdAppend b s) = bound s := by
  unfold cmdAppend
  split <;> rfl

theorem bound_epyxReset (s : State) : bound (epyxReset s) = bound s := by
  unfold epyxReset
  split <;> rfl

theorem bound_epyxMw (k : Nat) (addr : BitVec 16) (len : Byte) (bs : List Byte) (s : State) :
    bound (epyxMw k addr len bs s) = bound s := by
  unfold epyxMw
  split
  · exact bound_epyxReset s
  · split
    · exact bound_epyxReset s
    · dsimp only
      split
      · rfl
      · split
        · rfl
        · exact bound_epyxReset s

theorem bound_epyxMe (k : Nat) (addr : BitVec 16) (s : State) : bound (epyxMe k addr s) = bound s := by
  unfold epyxMe
  split
  · exact (bound_epyxReset _).trans (bound_setFlag k .epyxHeader s)
  · exact bound_epyxReset s

/-- The next state of an answer, if there is one, is bound as `b` says. -/
abbrev BoundIs (b : Bound) (r : Res) : Prop := NextHas (fun t => bound t = b) r

variable {b : Bound}

theorem boundIs_failWith (kind : ErrKind) (h : bound s = b) : BoundIs b (failWith kind s) := by
  have unwound : bound (unwind kind s.seq (unguard s)) = b :=
    (bound_unwind kind _ _).trans ((bound_unguard s).trans h)
  cases kind with
  | verifyError | notAddressed => trivial
  | timeoutMissedEdge | atnPreempted | deviceRefused | checksumMismatch => exact unwound

theorem boundIs_finishWait (strict : Bool) (r : WaitResult) (h : bound s = b) : BoundIs b (finishWait strict r s) := by
  unfold finishWait
  split
  · cases r with
    | reached => exact h
    | timeout => exact boundIs_failWith .timeoutMissedEdge h
    | atnAbort => exact boundIs_failWith .atnPreempted h
  · exact h

theorem boundIs_driveLine (l : Line) (on : Bool) (h : bound s = b) : BoundIs b (driveLine l on s) := by
  cases l with
  | clk | data => exact h
  | ctrl | ht => simpa [driveLine, NextHas, bound, tableOf] using h
  | par k => unfold driveLine; dsimp only; split <;> exact h
  | atn | reset | hr => trivial

theorem boundIs_maskIrq (h : bound s = b) : BoundIs b (maskIrq s) := by
  unfold maskIrq
  split
  · trivial
  · exact h

theorem boundIs_bufWrite (i : Nat) (x : Byte) (h : bound s = b) : BoundIs b (bufWrite i x s) := by
  unfold bufWrite
  split
  · exact h
  · trivial

theorem boundIs_bufFill (i : Nat) (xs : List Byte) (h : bound s = b) : BoundIs b (bufFill i xs s) := by
  induction xs generalizing i s with
  | nil => exact h
  | cons x xs ih => exact nextHas_andThen (boundIs_bufWrite i x h) fun _ ht => ih _ ht

theorem boundIs_dolHold (k : Nat) (x : Byte) (eoi : Bool) {f : State → Res}
    (hf : ∀ t, bound t = b → BoundIs b (f t)) (h : bound s = b) : BoundIs b (dolHold k x eoi f s) := by
  unfold dolHold
  split
  · exact nextHas_andThen (boundIs_bufWrite _ x h) fun _ ht => ht
  · exact hf s h

theorem boundIs_dolCapture (x : Byte) (h : bound s = b) : BoundIs b (dolCapture x s) := by
  unfold dolCapture
  split
  · exact nextHas_andThen (boundIs_bufWrite _ x h) fun _ ht => ht
  · exact h

theorem boundIs_dolFlush (ps : List Pos) (h : bound s = b) : BoundIs b (dolFlush ps s) := by
  unfold dolFlush
  split
  · trivial
  · exact h

theorem boundIs_deliver (k : Nat) (x : Byte) (eoi : Bool) (h : bound s = b) : BoundIs b (deliver k x eoi s) := by
  have appended : bound (if s.sel.listenerSec = 0x6F then cmdAppend x s else s) = b :=
    holds_ite (P := fun t => bound t = b) ((bound_cmdAppend x s).trans h) h
  generalize hu : (if s.sel.listenerSec = 0x6F then cmdAppend x s else s) = u at appended
  simp only [deliver, hu]
  split
  · exact boundIs_dolFlush _ appended
  · exact appended

theorem boundIs_flushThen (p : Pos) {f : State → Res} (hf : ∀ t, bound t = b → BoundIs b (f t)) (h : bound s = b) :
    BoundIs b (flushThen p f s) := by
  unfold flushThen
  split
  · exact hf s h
  · exact boundIs_dolFlush _ h

theorem boundIs_flushBeforeCall (k : Nat) (isListen : Bool) (sec : Byte) (p : Pos) {f : State → Res}
    (hf : ∀ t, bound t = b → BoundIs b (f t)) (h : bound s = b) :
    BoundIs b (flushBeforeCall k isListen sec p f s) := by
  unfold flushBeforeCall
  split
  · exact hf s h
  · exact boundIs_flushThen p hf h

/-- What only construction and `begin()` write goes through every shared operation. -/
theorem keptByOperations_bound (b : Bound) : KeptByOperations fun t => bound t = b where
  unwatched h e := by rw [e]; exact h
  lowerCounts _ _ h := h
  newCommand h := h
  driveLine h := boundIs_driveLine _ _ h
  override h := by simpa [bound, tableOf] using h
  parOutput h := by simpa [bound, tableOf] using h
  parInput h := h
  setFlag h := (bound_setFlag _ _ _).trans h
  clearFlag h := (bound_clearFlag _ _ _).trans h
  maskIrq h := boundIs_maskIrq h
  unmaskIrq h := (bound_unmaskIrq _).trans h
  atnIsr _ h := (bound_atnIsr _).trans h
  failWith h := boundIs_failWith _ h
  finishWait h := boundIs_finishWait _ _ h
  bufWrite h := boundIs_bufWrite _ _ h
  bufFill h := boundIs_bufFill _ _ h
  dolHold hf h := boundIs_dolHold _ _ _ hf h
  dolCapture h := boundIs_dolCapture _ h
  deliver h := boundIs_deliver _ _ _ h
  flushThen hf h := boundIs_flushThen _ hf h
  flushBeforeCall hf h := boundIs_flushBeforeCall _ _ _ _ hf h
  epyxReset h := (bound_epyxReset _).trans h
  epyxMw h := (bound_epyxMw _ _ _ _ _).trans h
  epyxMe h := (bound_epyxMe _ _ _).trans h

/-- A primary or a secondary writes none of it either. -/
theorem boundIs_addressCase {r : Res} (hr : AddressCase s r) (h : bound s = b) : BoundIs b r := by
  have hP := keptByOperations_bound b
  have popped : bound s.pop = b := h
  cases hr with
  | null => exact nextHas_rxAck hP _ _ _ popped
  | acknowledged rx => exact nextHas_rxAck (s := setPrimary rx s.pop) hP _ _ _ popped
  | recorded rx => exact h
  | listen a | talk a =>
    unfold captureAddress
    dsimp only
    split <;> exact h
  | secondary rx =>
    unfold captureSecondary
    dsimp only
    split
    · exact h
    · split
      · exact h
      · exact nextHas_rxAck (s := { s.pop with addr := { s.pop.addr with secondary := rx, secValid := true } })
          hP rx false true popped
  | noRole => exact h
  | doListen k sec => exact nextHas_doListen hP k sec popped
  | doTalk k sec => exact nextHas_doTalk hP k sec popped
  | doUnlisten =>
    unfold doUnlisten
    split
    · exact h
    · split <;> exact h
  | doUntalk =>
    unfold doUntalk
    split <;> exact h

theorem boundIs_exec (i : Instr) (h : bound s = b) : BoundIs b (exec i s) := by
  by_cases hf : formatOf i = .pri ∨ formatOf i = .sec
  · exact boundIs_addressCase (exec_addressCase hf) h
  · obtain ⟨hpri, hsec⟩ := not_or.1 hf
    exact nextHas_exec_atSite (keptByOperations_bound b) hpri hsec h

theorem bound_resetStep (s : State) : bound (resetStep s) = bound s := by
  have restored : ∀ u, bound (resetAll u) = bound u := fun u =>
    congrArg (·, u.engine, u.registry, u.life) (map_identity_map _ _ (Entry.identity_restore u.cfg))
  unfold resetStep
  split
  · exact holds_ite (P := fun t => bound t = bound s) (restored _) rfl
  · rfl

theorem bound_atnRequest (s : State) : bound (atnRequest s) = bound s := by
  unfold atnRequest
  split
  · exact bound_atnFall s
  · split <;> rfl

theorem boundIs_runTick (p : TickPos) (h : bound s = b) : BoundIs b (runTick p s) := by
  have hP := keptByOperations_bound b
  cases p with
  | s1 => exact (bound_resetStep _).trans h
  | s2 | s7 | canWrite | canRead k => exact (bound_atnRequest _).trans h
  | s3 => exact nextHas_stepDolphin hP h
  | s4 => exact nextHas_stepEpyx hP h
  | s5 => exact nextHas_listenStep hP h
  | s6 => exact nextHas_talkStep hP h
  | s8 => exact h
  | finish =>
    unfold runTick tickFinish
    dsimp only
    split
    · trivial
    · split
      · exact (bound_atnRequest _).trans h
      · exact h
  | posted => exact nextHas_tickReturn hP h
  | listen w => exact nextHas_listenAnswer hP w h
  | talk k n => exact nextHas_talkAnswer hP k n h
  | transmit k n => exact nextHas_transmitNow hP k n h

theorem boundIs_runRole (p : RolePos) (h : bound s = b) : BoundIs b (runRole p s) := by
  have hP := keptByOperations_bound b
  cases p with
  | listenFlushed k sec => exact nextHas_listenFlushed hP k sec h
  | listenFree k sec => exact nextHas_listenFree hP k sec h
  | talkFlushed k sec => exact nextHas_talkFlushed hP k sec h
  | talkFree k sec => exact nextHas_talkFree hP k sec h
  | listenDone | talkCalled | reverse | unlisten | unlistenDone | untalkDone => exact h

/-- Every statement but those of construction and `begin()`. -/
theorem boundIs_runPos {p : Pos} (hp : p.isBoot = false) (h : bound s = b) : BoundIs b (runPos p s) := by
  have hP := keptByOperations_bound b
  cases p with
  | boot p => cases hp
  | decode site => exact h
  | yield y => exact h
  | tick p => exact boundIs_runTick p h
  | role p => exact boundIs_runRole p h
  | rx p => exact nextHas_runRx hP p h
  | tx p => exact nextHas_runTx hP p h
  | jiffy p => exact nextHas_runJiffy hP p h
  | dol p => exact nextHas_runDol hP p h
  | epyx p => exact nextHas_runEpyx hP p h
  | pulseEnd l strict => exact nextHas_pulseEnd hP l strict h
  | raise kind => exact boundIs_failWith kind h

/-! ## No statement of construction or `begin()` comes back (70_reset R1101)

A routine pushes statements of its own engine; where they are written out, `exact h` closes the goal. -/

/-- No statement of construction or of `begin()` is still to run. -/
def BootFree (s : State) : Prop := s.seq.any Pos.isBoot = false

theorem bootFree_of_seq_eq (e : t.seq = s.seq) (h : BootFree s) : BootFree t := by
  unfold BootFree
  rwa [e]

theorem bootFree_push {ps : List Pos} (hps : ps.any Pos.isBoot = false) (h : BootFree s) : BootFree (s.push ps) := by
  simpa [BootFree, hps] using h

theorem bootFree_pop (h : BootFree s) : BootFree s.pop := by
  simp only [BootFree, List.any_eq_false] at h ⊢
  exact fun p hp => h p (List.mem_of_mem_tail hp)

theorem atnIsr_seq (s : State) : (atnIsr s).seq = s.seq := by
  unfold atnIsr
  split
  · rfl
  · split
    · rfl
    · split
      · exact atnFall_seq s
      · rfl

theorem bootFree_unmaskIrq (h : BootFree s) : BootFree (unmaskIrq s) := by
  unfold unmaskIrq
  exact holds_ite (bootFree_of_seq_eq (atnIsr_seq _) h) h

theorem bootFree_atnRequest (h : BootFree s) : BootFree (atnRequest s) := by
  unfold atnRequest
  exact holds_ite (bootFree_of_seq_eq (atnFall_seq s) h) (holds_ite h h)

theorem bootFree_onFail (kind : ErrKind) (h : BootFree s) : BootFree (onFail kind s) := by
  cases kind <;> exact h

/-- A failure only takes statements off the sequencer, or puts one of `tick()` or of Epyx in their place. -/
theorem bootFree_unwind (kind : ErrKind) (ps : List Pos) (s : State) (h : ps.any Pos.isBoot = false) :
    BootFree (unwind kind ps s) := by
  fun_induction unwind kind ps s with
  | case1 => exact bootFree_onFail kind rfl
  | case9 => exact h
  | case10 r s ih => exact ih h
  | case11 p r s _ _ _ _ _ _ _ _ _ ih => exact ih (Bool.or_eq_false_iff.1 h).2
  | _ => exact bootFree_onFail kind h

theorem bootFree_failWith (kind : ErrKind) (h : BootFree s) : NextHas BootFree (failWith kind s) := by
  cases kind with
  | verifyError | notAddressed => trivial
  | timeoutMissedEdge | atnPreempted | deviceRefused | checksumMismatch => exact bootFree_unwind _ _ _ h

theorem bootFree_finishWait (strict : Bool) (r : WaitResult) (h : BootFree s) :
    NextHas BootFree (finishWait strict r s) := by
  unfold finishWait
  split
  · cases r with
    | reached => exact h
    | timeout => exact bootFree_failWith .timeoutMissedEdge h
    | atnAbort => exact bootFree_failWith .atnPreempted h
  · exact h

theorem bootFree_driveLine (l : Line) (on : Bool) (h : BootFree s) : NextHas BootFree (driveLine l on s) := by
  cases l with
  | clk | data => exact h
  | ctrl => exact bootFree_of_seq_eq (override_seq on s) h
  | ht => exact bootFree_of_seq_eq (setHt_seq on s) h
  | par k => unfold driveLine; dsimp only; split <;> exact h
  | atn | reset | hr => trivial

theorem bootFree_pulseLow {l : Line} {n : Nat} {strict : Bool} {ps : List Pos} (hps : ps.any Pos.isBoot = false)
    (h : BootFree s) : NextHas BootFree (pulseLow l n strict ps s) :=
  nextHas_andThen (bootFree_driveLine l true h) fun _ hu => bootFree_push hps hu

theorem bootFree_masked {f : State → Res} (hf : ∀ u, BootFree u → NextHas BootFree (f u)) (h : BootFree s) :
    NextHas BootFree (andThen (maskIrq s) f) := by
  unfold maskIrq
  split
  · trivial
  · exact hf _ h

theorem bootFree_bufWrite (i : Nat) (x : Byte) (h : BootFree s) : NextHas BootFree (bufWrite i x s) := by
  unfold bufWrite
  split
  · exact h
  · trivial

theorem bootFree_bufFill (i : Nat) (xs : List Byte) (h : BootFree s) : NextHas BootFree (bufFill i xs s) := by
  induction xs generalizing i s with
  | nil => exact h
  | cons x xs ih => exact nextHas_andThen (bootFree_bufWrite i x h) fun _ ht => ih _ ht

/-! ### Held bytes -/

theorem heldWrites_bootFree (j : Nat) (eoi : Bool) (bs : List Byte) :
    (heldWrites j eoi bs).any Pos.isBoot = false := by
  fun_induction heldWrites j eoi bs with
  | case1 | case2 => rfl
  | case3 x xs _ ih => exact ih

theorem flushCalls_bootFree (s : State) (held : List Byte) : (flushCalls s held).any Pos.isBoot = false := by
  have writes := heldWrites_bootFree s.dol.preDev s.dol.preEoi held
  unfold flushCalls
  dsimp only
  split
  · exact writes
  · split <;> simp [Pos.isBoot, writes]

theorem bootFree_dolFlush {ps : List Pos} (hps : ps.any Pos.isBoot = false) (h : BootFree s) :
    NextHas BootFree (dolFlush ps s) := by
  unfold dolFlush
  split
  · trivial
  · next held _ =>
    simpa [NextHas, BootFree, flushCalls_bootFree, hps] using h

theorem bootFree_flushThen {p : Pos} {f : State → Res} (hp : p.isBoot = false)
    (hf : ∀ u, BootFree u → NextHas BootFree (f u)) (h : BootFree s) : NextHas BootFree (flushThen p f s) := by
  unfold flushThen
  split
  · exact hf s h
  · exact bootFree_dolFlush (by simp [hp]) h

theorem bootFree_flushBeforeCall {k : Nat} {isListen : Bool} {sec : Byte} {p : Pos} {f : State → Res}
    (hp : p.isBoot = false) (hf : ∀ u, BootFree u → NextHas BootFree (f u)) (h : BootFree s) :
    NextHas BootFree (flushBeforeCall k isListen sec p f s) := by
  unfold flushBeforeCall
  split
  · exact hf s h
  · exact bootFree_flushThen hp hf h

theorem cmdAppend_seq (x : Byte) (s : State) : (cmdAppend x s).seq = s.seq := by
  unfold cmdAppend
  split <;> rfl

theorem bootFree_deliver (k : Nat) (x : Byte) (eoi : Bool) (h : BootFree s) :
    NextHas BootFree (deliver k x eoi s) := by
  have appended : BootFree (if s.sel.listenerSec = 0x6F then cmdAppend x s else s) :=
    holds_ite (bootFree_of_seq_eq (cmdAppend_seq x s) h) h
  unfold deliver
  dsimp only
  generalize (if s.sel.listenerSec = 0x6F then cmdAppend x s else s) = u at appended ⊢
  split
  · exact bootFree_dolFlush rfl appended
  · exact appended

theorem bootFree_dolHold (k : Nat) (x : Byte) (eoi : Bool) {f : State → Res} (hf : NextHas BootFree (f s))
    (h : BootFree s) : NextHas BootFree (dolHold k x eoi f s) := by
  unfold dolHold
  split
  · exact nextHas_andThen (bootFree_bufWrite _ x h) fun _ ht => ht
  · exact hf

theorem bootFree_dolCapture (x : Byte) (h : BootFree s) : NextHas BootFree (dolCapture x s) := by
  unfold dolCapture
  split
  · exact nextHas_andThen (bootFree_bufWrite _ x h) fun _ ht => ht
  · exact h

/-! ### The DolphinDOS engine -/

theorem bootFree_probeIfArmed (k : Option Nat) (h : BootFree s) : NextHas BootFree (probeIfArmed k s) := by
  unfold probeIfArmed
  split
  · split <;> exact h
  · exact h

theorem bootFree_dolphinPending (h : BootFree s) : NextHas BootFree (dolphinPending s) := by
  unfold dolphinPending
  split
  · exact h
  · next k _ =>
    dsimp only
    generalize (if s.flag k .dolphinBurstTx then BurstDir.tx else .rx) = dir
    split
    · exact h
    · split
      · exact h
      · cases dir <;> exact h

theorem bootFree_burstSend {ps : List Pos} (x : Byte) (hps : ps.any Pos.isBoot = false) (h : BootFree s) :
    NextHas BootFree (burstSend x ps s) :=
  bootFree_masked (fun _ hu => bootFree_pulseLow hps (bootFree_of_seq_eq (parOutput_seq _ _) hu)) h

theorem bootFree_burstHeld (k i : Nat) (h : BootFree s) : NextHas BootFree (burstHeld k i s) := by
  unfold burstHeld
  split
  · split
    · trivial
    · exact bootFree_burstSend _ rfl h
  · exact h

theorem bootFree_burstWait (k : Nat) (h : BootFree s) : NextHas BootFree (burstWait k s) :=
  bootFree_masked (fun _ hu => hu) h

theorem bootFree_dolTransmit (k n : Nat) (h : BootFree s) : NextHas BootFree (dolTransmit k n s) := by
  unfold dolTransmit
  split
  · exact h
  · exact bootFree_masked (fun _ hu => hu) h

theorem bootFree_runDol (p : DolPos) (h : BootFree s) : NextHas BootFree (runDol p s) := by
  cases p with
  | rxPulsed k | txPeeked k n | txHigh k b | sendPulsed | burstAsk k | burstEnd | releaseClk => exact h
  | rxEdge k =>
    unfold runDol dolRxEdge
    dsimp only
    split
    · exact bootFree_failWith _ h
    · exact bootFree_pulseLow rfl h
    · exact h
  | rxData k eoi => exact bootFree_dolHold (s := setData true s) k _ eoi (bootFree_deliver k _ eoi h) h
  | txEmpty => exact bootFree_failWith .deviceRefused h
  | txReady k n b =>
    unfold runDol dolTxReady
    dsimp only
    split <;> exact h
  | txValid k b =>
    exact bootFree_unmaskIrq (s := setClk true (parOutput b s)) (bootFree_of_seq_eq (parOutput_seq b s) h)
  | txRead b => exact nextHas_andThen (bootFree_dolCapture b h) fun _ hu => hu
  | txAcked =>
    unfold runDol dolTxAcked
    dsimp only
    split
    · exact bootFree_failWith _ h
    · exact bootFree_failWith _ h
    · exact h
  | sendTaken => exact bootFree_unmaskIrq h
  | burstTalk k => exact bootFree_burstHeld (s := burstClk true s) k 0 h
  | burstHeld k i => exact bootFree_burstHeld k i h
  | burstCount k =>
    unfold runDol burstCount
    dsimp only
    split
    · exact h
    · split <;> exact h
  | burstByte k => exact bootFree_burstSend _ rfl h
  | burstListen k => exact bootFree_burstWait (s := parInput s) k h
  | burstTake k =>
    unfold runDol burstTake
    exact bootFree_pulseLow rfl h
  | burstTaken k b eoi => exact bootFree_unmaskIrq h
  | burstNext k eoi =>
    unfold runDol
    dsimp only
    split
    · exact h
    · exact bootFree_burstWait k h
  | returned =>
    unfold runDol
    dsimp only
    split
    · trivial
    · exact h

/-! ### The standard byte -/

theorem bootFree_iecReceive (h : BootFree s) : NextHas BootFree (iecReceive s) := by
  unfold iecReceive
  dsimp only
  split <;> exact h

theorem bootFree_rxAck (rx : Byte) (eoi newSec : Bool) (h : BootFree s) :
    NextHas BootFree (rxAck rx eoi newSec s) := by
  have acknowledged : BootFree (setData true s) := h
  unfold rxAck
  dsimp only
  split
  · exact nextHas_withCurrent fun k => bootFree_deliver k rx eoi acknowledged
  · split
    · exact bootFree_probeIfArmed _ acknowledged
    · exact acknowledged

theorem bootFree_rxByte (rx : Byte) (eoi : Bool) (h : BootFree s) : NextHas BootFree (rxByte rx eoi s) := by
  unfold rxByte
  split
  · split
    · exact h
    · split
      · exact h
      · split
        · exact bootFree_rxAck rx eoi false h
        · exact h
  · exact bootFree_rxAck rx eoi false h

theorem bootFree_runRx (p : RxPos) (h : BootFree s) : NextHas BootFree (runRx p s) := by
  cases p with
  | clkFall | eoiPulsed | detected j rx eoi => exact h
  | eoiTest =>
    unfold runRx rxEoiTest
    dsimp only
    split
    · exact bootFree_failWith _ h
    · split
      · exact h
      · exact bootFree_pulseLow rfl h
    · exact h
  | bit i rx eoi =>
    unfold runRx rxBit
    dsimp only
    split <;> exact h
  | window rx eoi =>
    unfold runRx rxWindow
    dsimp only
    split
    · exact bootFree_failWith _ h
    · exact h
    · split
      · exact h
      · exact bootFree_pulseLow rfl h
  | sample i rx eoi => exact bootFree_push (ps := [.yield _, .rx _]) rfl h
  | byte rx eoi => exact bootFree_rxByte rx eoi h
  | ack rx eoi newSec => exact bootFree_rxAck rx eoi newSec h
  | probe k =>
    unfold runRx probeEnd
    dsimp only
    split
    · exact h
    all_goals exact bootFree_pulseLow (s := s.setFlag k .dolphinDetected) rfl h

theorem bootFree_txSend (k n : Nat) (h : BootFree s) : NextHas BootFree (txSend k n s) := by
  unfold txSend
  split
  · exact bootFree_failWith _ h
  · exact h

theorem bootFree_runTx (p : TxPos) (h : BootFree s) : NextHas BootFree (runTx p s) := by
  cases p with
  | high k n | peeked k | lowHeld k b i | acked k | committed => exact h
  | ready k n verify =>
    unfold runTx txReady
    dsimp only
    split
    · exact h
    · exact bootFree_txSend k n h
  | send k n => exact bootFree_txSend k n h
  | highHeld k b i =>
    unfold runTx txNext
    dsimp only
    split <;> exact h

/-! ### The JiffyDOS engine -/

theorem bootFree_jiffyTxStart (k : Nat) (st : TxStatus) (x : Byte) (h : BootFree s) :
    NextHas BootFree (jiffyTxStart k st x s) := bootFree_masked (fun _ hu => hu) h

theorem bootFree_jiffyTransmit (k n : Nat) (h : BootFree s) : NextHas BootFree (jiffyTransmit k n s) := by
  unfold jiffyTransmit
  dsimp only
  split
  · exact h
  · exact bootFree_jiffyTxStart k _ _ h

theorem bootFree_jiffyEoiBlock (h : BootFree s) : NextHas BootFree (jiffyEoiBlock s) :=
  bootFree_masked (fun _ hu => hu) h

theorem bootFree_jiffyBlockByte (m j : Nat) (h : BootFree s) : NextHas BootFree (jiffyBlockByte m j s) :=
  bootFree_masked (fun _ hu => hu) h

theorem bootFree_jiffyBlockClaimed (k n : Nat) (h : BootFree s) : NextHas BootFree (jiffyBlockClaimed k n s) := by
  unfold jiffyBlockClaimed
  dsimp only
  split
  · exact bootFree_jiffyEoiBlock (s := dropCapture s) h
  · exact h

theorem bootFree_runJiffy (p : JiffyPos) (h : BootFree s) : NextHas BootFree (runJiffy p s) := by
  have unmasked := bootFree_unmaskIrq h
  cases p with
  | rxEdge k | rxEoi k t0 rx | txEdge k st b | txStatus k st | txHeld k st | blockHigh m j | blockEdge m j => exact h
  | rxPair k t0 i rx =>
    unfold runJiffy jiffyRxPair
    dsimp only
    split <;> exact h
  | rxDone k rx eoi => exact bootFree_deliver k rx eoi unmasked
  | txPeeked k st => exact bootFree_jiffyTxStart k st _ h
  | txPair k st b t0 i =>
    unfold runJiffy jiffyTxPair
    dsimp only
    split <;> exact h
  | txAcked k st =>
    unfold runJiffy jiffyTxAcked
    dsimp only
    split
    · exact bootFree_failWith _ unmasked
    · exact unmasked
  | claimed k n => exact bootFree_jiffyBlockClaimed k n h
  | filled =>
    refine nextHas_andThen (bootFree_bufFill 0 _ h) fun u hu => ?_
    split
    · exact bootFree_jiffyEoiBlock hu
    · exact bootFree_jiffyBlockByte _ 0 hu
  | blockPair m j t0 i =>
    unfold runJiffy jiffyBlockPair
    dsimp only
    split
    · trivial
    · split <;> exact h
  | blockEnd m j =>
    have unmasked : BootFree (unmaskIrq (setData false s)) := bootFree_unmaskIrq h
    unfold runJiffy jiffyBlockEnd
    dsimp only
    split
    · exact bootFree_jiffyBlockByte m _ unmasked
    · exact unmasked
  | eoiHeld => exact bootFree_unmaskIrq (s := setClk true s) h

/-! ### The Epyx engine -/

theorem bootFree_epyxReceive {ps : List Pos} (hps : ps.any Pos.isBoot = false) (h : BootFree s) :
    NextHas BootFree (epyxReceive ps s) :=
  bootFree_masked (fun _ hu => bootFree_push (ps := .yield _ :: .epyx _ :: ps) hps hu) h

theorem bootFree_epyxTransmit {ps : List Pos} (x : Byte) (hps : ps.any Pos.isBoot = false) (h : BootFree s) :
    NextHas BootFree (epyxTransmit x ps s) :=
  bootFree_masked (fun _ hu => bootFree_push (ps := .yield _ :: .epyx _ :: ps) hps hu) h

theorem bootFree_epyxOpen (k len : Nat) (h : BootFree s) : NextHas BootFree (epyxOpen k len s) := by
  unfold epyxOpen
  split
  · trivial
  · exact bootFree_push (by simp [Pos.isBoot, heldWrites_bootFree]) h

theorem bootFree_epyxName (k : Nat) (len : Byte) (i : Nat) (h : BootFree s) :
    NextHas BootFree (epyxName k len i s) := by
  unfold epyxName
  split
  · exact bootFree_epyxReceive rfl h
  · split
    · exact h
    · exact bootFree_epyxOpen k _ h

theorem bootFree_epyxNameStart (k : Nat) (len : Byte) (h : BootFree s) : NextHas BootFree (epyxNameStart k len s) :=
  bootFree_flushThen rfl (fun u hu => bootFree_epyxName (s := dropCapture u) k len 0 hu) h

theorem bootFree_epyxFinish {ps : List Pos} (k : Nat) (hps : ps.any Pos.isBoot = false) (h : BootFree s) :
    NextHas BootFree (epyxFinish k ps s) :=
  bootFree_push (s := s.clearFlag k .epyxLoad) (ps := .yield _ :: .yield _ :: .yield _ :: .epyx .closed :: ps) hps h

theorem bootFree_epyxSector (k : Nat) (sum : Byte) (h : BootFree s) : NextHas BootFree (epyxSector k sum s) := by
  unfold epyxSector
  split
  · exact h
  · exact bootFree_failWith _ h

theorem bootFree_epyxBeat (k i : Nat) (h : BootFree s) : NextHas BootFree (epyxBeat k i s) := by
  unfold epyxBeat
  split
  · split
    · exact bootFree_epyxReceive (s := setClk false s) rfl h
    · exact h
  · exact bootFree_failWith (s := s.clearFlag k .epyxSectorOp) _ h

theorem bootFree_sectorSend (k i : Nat) (h : BootFree s) : NextHas BootFree (sectorSend k i s) := by
  unfold sectorSend
  split
  · split
    · split
      · trivial
      · exact bootFree_epyxTransmit _ rfl h
    · exact bootFree_epyxTransmit (s := { s with env := { s.env with draws := s.env.draws + 1 } }) _ rfl h
  · exact h

theorem bootFree_sectorReadClaimed (k : Nat) (tr sec : Byte) (h : BootFree s) :
    NextHas BootFree (sectorReadClaimed k tr sec s) := by
  unfold sectorReadClaimed
  dsimp only
  split
  · exact h
  · exact bootFree_sectorSend (s := dropCapture s) k 0 h

theorem bootFree_sectorWriteClaimed (k : Nat) (tr sec : Byte) (h : BootFree s) :
    NextHas BootFree (sectorWriteClaimed k tr sec s) := bootFree_epyxReceive (s := dropCapture s) rfl h

theorem bootFree_sectorAct (k : Nat) (tr sec c : Byte) (h : BootFree s) :
    NextHas BootFree (sectorAct k tr sec c s) := by
  unfold sectorAct
  split
  · exact bootFree_flushThen rfl (fun _ hu => bootFree_sectorReadClaimed k tr sec hu) h
  · exact bootFree_flushThen rfl (fun _ hu => bootFree_sectorWriteClaimed k tr sec hu) h
  · exact h

theorem bootFree_sectorWriteByte (k : Nat) (tr sec : Byte) (i : Nat) (h : BootFree s) :
    NextHas BootFree (sectorWriteByte k tr sec i s) := by
  refine nextHas_andThen (bootFree_bufWrite i _ h) fun u hu => ?_
  split
  · exact bootFree_epyxReceive rfl hu
  · split
    · split
      · trivial
      · exact hu
    · exact hu

theorem bootFree_epyxPending (h : BootFree s) : NextHas BootFree (epyxPending s) := by
  unfold epyxPending
  split
  · exact h
  · next k _ =>
    split
    · split <;> exact h
    · split
      · exact bootFree_flushThen rfl (fun _ hu => hu) h
      · exact bootFree_epyxBeat k 0 h

theorem bootFree_runEpyx (p : EpyxPos) (h : BootFree s) : NextHas BootFree (runEpyx p s) := by
  cases p with
  | txEdge v | txClk t0 | txData | nameLen k | opened k | loadClaimed k | guarded k | closed | beatLow k i => exact h
  | headerReady k => exact bootFree_epyxReceive (s := setClk false s) rfl h
  | headerByte k i sum =>
    unfold runEpyx epyxHeaderByte
    dsimp only
    split
    · exact bootFree_epyxReceive rfl h
    · exact h
  | rxBit i v lvl =>
    unfold runEpyx epyxRxBit
    dsimp only
    split
    · exact h
    · exact bootFree_unmaskIrq h
  | txPair v t0 i =>
    unfold runEpyx epyxTxPair
    dsimp only
    split <;> exact h
  | txTaken => exact bootFree_unmaskIrq h
  | nameClaimed k len => exact bootFree_epyxName (s := dropCapture s) k len 0 h
  | nameByte k len i =>
    unfold runEpyx epyxNameByte
    dsimp only
    split
    · exact nextHas_andThen (bootFree_bufWrite _ _ h) fun _ hu => bootFree_epyxName k len _ hu
    · exact bootFree_epyxName k len _ h
  | loadRead k => exact nextHas_andThen (bootFree_bufFill 0 _ h) fun _ hu => bootFree_epyxTransmit _ rfl hu
  | loadByte k n i =>
    unfold runEpyx epyxLoadByte
    dsimp only
    split
    · split
      · trivial
      · exact bootFree_epyxTransmit _ rfl h
    · split
      · exact bootFree_epyxFinish k rfl h
      · exact h
  | abort k kind => exact bootFree_epyxFinish k rfl h
  | beat k i => exact bootFree_epyxBeat k i h
  | sectorTrack k => exact bootFree_epyxReceive rfl h
  | sectorSector k tr =>
    unfold runEpyx sectorCommand
    dsimp only
    split
    · exact bootFree_epyxReceive rfl h
    · exact bootFree_sectorAct k tr _ _ h
  | sectorCommand k tr sec => exact bootFree_sectorAct k tr sec _ h
  | readClaimed k tr sec => exact bootFree_sectorReadClaimed k tr sec h
  | readFilled k => exact nextHas_andThen (bootFree_bufFill 0 _ h) fun _ hu => bootFree_sectorSend k 0 hu
  | readSend k i => exact bootFree_sectorSend k i h
  | writeClaimed k tr sec => exact bootFree_sectorWriteClaimed k tr sec h
  | writeByte k tr sec i => exact bootFree_sectorWriteByte k tr sec i h

/-! ### The role actions and the tick -/

theorem bootFree_listenFlushed (k : Nat) (sec : Byte) (h : BootFree s) : NextHas BootFree (listenFlushed k sec s) := by
  unfold listenFlushed
  split
  · split <;> exact h
  · exact h

theorem bootFree_talkFree (k : Nat) (sec : Byte) (h : BootFree s) : NextHas BootFree (talkFree k sec s) := by
  have blocked : BootFree (if blockEntry k sec s then s.setFlag k .jiffyBlock else s) := holds_ite h h
  unfold talkFree
  dsimp only
  generalize (if blockEntry k sec s then s.setFlag k .jiffyBlock else s) = u at blocked ⊢
  have dropped : BootFree (if u.flag k .dolphinDetected then dropCapture u else u) := holds_ite blocked blocked
  exact dropped

theorem bootFree_talkFlushed (k : Nat) (sec : Byte) (h : BootFree s) : NextHas BootFree (talkFlushed k sec s) := by
  unfold talkFlushed
  split
  · split
    · exact bootFree_talkFree k sec h
    · exact h
  · exact bootFree_talkFree k sec h

theorem bootFree_runRole (p : RolePos) (h : BootFree s) : NextHas BootFree (runRole p s) := by
  cases p with
  | listenFlushed k sec => exact bootFree_listenFlushed k sec h
  | talkFlushed k sec => exact bootFree_talkFlushed k sec h
  | talkFree k sec => exact bootFree_talkFree k sec h
  | listenFree | listenDone | talkCalled | reverse | unlisten | unlistenDone | untalkDone => exact h

theorem bootFree_resetStep (h : BootFree s) : BootFree (resetStep s) := by
  unfold resetStep
  exact holds_ite (holds_ite (bootFree_push (s := resetFields _) (by simp [Pos.isBoot]) h) h) h

theorem bootFree_receiveDispatch (h : BootFree s) : NextHas BootFree (receiveDispatch s) := by
  unfold receiveDispatch
  split
  · split
    · exact bootFree_iecReceive h
    · exact h
  · refine nextHas_withCurrent fun k => ?_
    split
    · exact bootFree_masked (fun _ hu => hu) h
    · split
      · exact h
      · split
        · exact h
        · exact bootFree_iecReceive h

theorem bootFree_override (on : Bool) (h : BootFree s) : BootFree (override on s) :=
  bootFree_of_seq_eq (override_seq on s) h

theorem bootFree_listenStep (h : BootFree s) : NextHas BootFree (listenStep s) := by
  unfold listenStep
  split
  · split
    · exact nextHas_withCurrent fun _ => bootFree_override true h
    · exact bootFree_receiveDispatch h
  · exact h

theorem bootFree_listenAnswer (w : BitVec 8) (h : BootFree s) : NextHas BootFree (listenAnswer w s) := by
  have released := bootFree_override false h
  unfold listenAnswer
  split
  · exact h
  · dsimp only
    split
    · exact released
    · split
      · exact bootFree_failWith _ released
      · exact bootFree_receiveDispatch released

theorem bootFree_talkStep (h : BootFree s) : NextHas BootFree (talkStep s) := by
  unfold talkStep
  split
  · exact nextHas_withCurrent fun _ => bootFree_override true h
  · exact h

theorem bootFree_transmitNow (k n : Nat) (h : BootFree s) : NextHas BootFree (transmitNow k n s) := by
  unfold transmitNow
  split
  · exact bootFree_flushThen rfl (fun _ hu => bootFree_jiffyBlockClaimed k n hu) h
  · split
    · exact bootFree_jiffyTransmit k n h
    · split
      · exact bootFree_dolTransmit k n h
      · exact h

theorem bootFree_talkAnswer (k : Nat) (n : BitVec 8) (h : BootFree s) : NextHas BootFree (talkAnswer k n s) := by
  have released := bootFree_override false h
  unfold talkAnswer transmitDispatch
  split
  · exact h
  · dsimp only
    split
    · exact released
    · split
      · exact released
      · exact bootFree_transmitNow k _ released

theorem bootFree_runTick (p : TickPos) (h : BootFree s) : NextHas BootFree (runTick p s) := by
  cases p with
  | s1 => exact bootFree_resetStep (s := (setInTick true s).push [.tick .s2]) h
  | s2 => exact bootFree_atnRequest (s := s.push [.tick .s3]) h
  | s3 =>
    unfold runTick stepDolphin
    dsimp only
    split
    · exact bootFree_dolphinPending (s := s.push [.tick .s4]) h
    · exact h
  | s4 =>
    unfold runTick stepEpyx
    dsimp only
    split
    · exact bootFree_epyxPending (s := s.push [.tick .s5]) h
    · exact h
  | s5 => exact bootFree_listenStep (s := s.push [.tick .s6]) h
  | s6 => exact bootFree_talkStep (s := s.push [.tick .s7]) h
  | s7 => exact bootFree_atnRequest (s := s.push [.tick .s8]) h
  | s8 => exact bootFree_push (by simp [Pos.isBoot]) h
  | finish =>
    unfold runTick tickFinish
    dsimp only
    split
    · trivial
    · split
      · exact bootFree_atnRequest (s := (setInTick true (setInTick false s)).push [.tick .posted]) h
      · exact h
  | posted =>
    unfold runTick tickReturn
    dsimp only
    split
    · trivial
    · exact h
  | canWrite => exact bootFree_atnRequest (s := (setInTick true s).push [.tick _]) h
  | listen w => exact bootFree_listenAnswer w h
  | canRead k => exact bootFree_atnRequest (s := (setInTick true s).push [.tick _]) h
  | talk k n => exact bootFree_talkAnswer k n h
  | transmit k n => exact bootFree_transmitNow k n h

/-- Every statement, those of construction and `begin()` too. -/
theorem bootFree_runPos (p : Pos) (h : BootFree s) : NextHas BootFree (runPos p s) := by
  cases p with
  | decode site => exact h
  | yield y => exact h
  | boot p =>
    cases p with
    | added d flags =>
      unfold runPos runBoot addDevice
      exact holds_ite h h
    | attach => exact h
  | tick p => exact bootFree_runTick p h
  | role p => exact bootFree_runRole p h
  | rx p => exact bootFree_runRx p h
  | tx p => exact bootFree_runTx p h
  | jiffy p => exact bootFree_runJiffy p h
  | dol p => exact bootFree_runDol p h
  | epyx p => exact bootFree_runEpyx p h
  | pulseEnd l strict =>
    refine nextHas_andThen (bootFree_driveLine l false h) fun u hu => ?_
    split
    · exact bootFree_finishWait true u.work.wait hu
    · exact hu
  | raise kind => exact bootFree_failWith kind h

/-! ### The commands -/

theorem bootFree_addressCase {r : Res} (hr : AddressCase s r) (h : BootFree s) : NextHas BootFree r := by
  have popped : BootFree s.pop := bootFree_pop h
  cases hr with
  | null => exact bootFree_rxAck _ _ _ popped
  | acknowledged rx => exact bootFree_rxAck (s := setPrimary rx s.pop) _ _ _ popped
  | recorded rx => exact popped
  | listen a | talk a =>
    unfold captureAddress
    dsimp only
    split <;> exact popped
  | secondary rx =>
    unfold captureSecondary
    dsimp only
    split
    · exact popped
    · split
      · exact popped
      · exact bootFree_rxAck (s := { s.pop with addr := { s.pop.addr with secondary := rx, secValid := true } })
          rx false true popped
  | noRole => exact popped
  | doListen k sec => exact bootFree_flushBeforeCall rfl (fun _ hu => bootFree_listenFlushed k sec hu) popped
  | doTalk k sec => exact bootFree_flushBeforeCall rfl (fun _ hu => bootFree_talkFlushed k sec hu) popped
  | doUnlisten =>
    unfold doUnlisten
    split
    · exact popped
    · split <;> exact popped
  | doUntalk =>
    unfold doUntalk
    split <;> exact popped

theorem dolphinRequest_seq (k : Nat) (dir : BurstDir) (s : State) : (dolphinRequest k dir s).seq = s.seq := by
  unfold dolphinRequest
  split
  · cases dir <;> rfl
  · rfl

theorem burstEnable_seq (k : Nat) (on : Bool) (s : State) : (burstEnable k on s).seq = s.seq := by
  unfold burstEnable
  split
  · split <;> rfl
  · rfl

theorem epyxMw_seq (k : Nat) (addr : BitVec 16) (len : Byte) (bs : List Byte) (s : State) :
    (epyxMw k addr len bs s).seq = s.seq := by
  unfold epyxMw
  split
  · exact epyxReset_seq s
  · split
    · exact epyxReset_seq s
    · dsimp only
      split
      · rfl
      · split
        · rfl
        · exact epyxReset_seq s

theorem epyxMe_seq (k : Nat) (addr : BitVec 16) (s : State) : (epyxMe k addr s).seq = s.seq := by
  unfold epyxMe
  split
  · exact epyxReset_seq (s.setFlag k .epyxHeader)
  · exact epyxReset_seq s

/-- A command at a device's decode point that only updates the state past it. -/
theorem bootFree_atSite_next {g : Nat → State → State} (hg : ∀ k u, (g k u).seq = u.seq) (h : BootFree s) :
    NextHas BootFree (atSite s fun k u => .next (g k u)) :=
  nextHas_atSite_next fun k => bootFree_of_seq_eq (hg k s.pop) (bootFree_pop h)

theorem bootFree_exec (i : Instr) (h : BootFree s) : NextHas BootFree (exec i s) := by
  have popped : BootFree s.pop := bootFree_pop h
  by_cases hf : formatOf i = .pri ∨ formatOf i = .sec
  · exact bootFree_addressCase (exec_addressCase hf) h
  cases i with
  | xq => exact bootFree_atSite_next (fun k u => (epyxReset_seq _).trans (dolphinRequest_seq k .tx u)) h
  | xz => exact bootFree_atSite_next (fun k u => (epyxReset_seq _).trans (dolphinRequest_seq k .rx u)) h
  | xfPlus => exact bootFree_atSite_next (fun k u => (epyxReset_seq _).trans (burstEnable_seq k true u)) h
  | xfMinus => exact bootFree_atSite_next (fun k u => (epyxReset_seq _).trans (burstEnable_seq k false u)) h
  | memWrite addr len payload => exact bootFree_atSite_next (fun k u => epyxMw_seq k addr len payload u) h
  | memExecute addr => exact bootFree_atSite_next (fun k u => epyxMe_seq k addr u) h
  | epyxLoadV1 | epyxLoadV2 | epyxLoadV3 => exact nextHas_atSite fun k => bootFree_epyxReceive rfl popped
  | epyxSector0B | epyxSectorB8 | epyxSectorBA => exact nextHas_atSite fun k => bootFree_epyxSector k _ popped
  | epyxUnknownSum sum => exact nextHas_atSite fun k => bootFree_failWith _ popped
  | epyxHdr len => exact nextHas_atSite fun k => bootFree_epyxNameStart k len popped
  | nullPrimary | unlisten | untalk | listen | talk | reservedPrimaryLow | reservedPrimary60 | reservedPrimary80 =>
    exact absurd (.inl rfl) hf
  | close15Ignored | dataCh | closeCh | openCh | reservedSecondary03 | reservedSecondary45 | reservedSecondary7
    | reservedSecondary8B | reservedSecondaryCD => exact absurd (.inr rfl) hf

/-! ### The moves -/

theorem driveLines_seq (d : Drives) (s : State) : (driveLines d s).seq = s.seq := by
  unfold driveLines
  dsimp only
  split
  · split
    · exact atnIsr_seq _
    · rfl
  · rfl

theorem deliverInterrupt_seq (pin : Nat) (s : State) : (deliverInterrupt pin s).seq = s.seq := by
  unfold deliverInterrupt
  split
  · exact atnIsr_seq _
  · rfl

theorem bootFree_pollWith (strict reached timeout : Bool) {stay : State} (hstay : BootFree stay) (h : BootFree s) :
    NextHas BootFree (pollWith strict reached timeout stay s) := by
  have popped : BootFree s.pop := bootFree_pop h
  unfold pollWith
  split
  · exact bootFree_finishWait _ _ popped
  · split
    · exact bootFree_finishWait _ _ popped
    · split
      · exact bootFree_finishWait _ _ popped
      · exact hstay

theorem bootFree_engineMove (y : Yield) (a : Answer) (h : BootFree s) : NextHas BootFree (engineMove y a s) := by
  have popped : BootFree s.pop := bootFree_pop h
  cases y with
  | between => exact h
  | call c =>
    unfold engineMove returnCall
    dsimp only
    split
    · exact popped
    · trivial
  | waitFor l lvl t start strict => exact bootFree_pollWith _ _ _ h h
  | waitUs t start strict => exact bootFree_pollWith _ _ _ h h
  | waitUntil half t0 => exact bootFree_pollWith _ _ _ h h
  | waitHr edge t start prev strict =>
    exact bootFree_pollWith _ _ _ (stay := { s with seq := .yield _ :: s.seq.tail }) popped h

/-! ## A step once `begin()` is over -/

/-- What O8 says of a step from `s` to `t`. -/
structure FixedSince (s t : State) : Prop where
  begun : t.life = .begun
  bootFree : BootFree t
  table : tableOf t = tableOf s
  engine : t.engine = s.engine
  registry : s.registry <+: t.registry

theorem fixedSince_of_bound_eq (hready : Ready s) (hbound : bound t = bound s) (hboot : BootFree t) :
    FixedSince s t := by
  simp only [bound, Prod.mk.injEq] at hbound
  obtain ⟨table, engine, registry, life⟩ := hbound
  exact ⟨life.trans hready.1, hboot, table, engine, registry ▸ List.prefix_rfl⟩

theorem nextHas_fixedSince {r : Res} (hready : Ready s) (hbound : BoundIs (bound s) r) (hboot : NextHas BootFree r) :
    NextHas (FixedSince s) r := by
  cases r with
  | next t => exact fixedSince_of_bound_eq hready hbound hboot
  | fault e => trivial
  | refused e => trivial

/-- After `begin()` a call of the main loop is refused, binds a new registry slot after the others, or starts a
tick. -/
theorem nextHas_fixedSince_hostCall (h : FixedSince s t) (c : HostCall) : NextHas (FixedSince s) (hostCall c t) := by
  obtain ⟨begun, boot, table, engine, registry⟩ := h
  cases c with
  | construct c pin =>
    simp only [hostCall, hostConstruct, begun, reduceCtorEq, if_false]
    split
    · trivial
    · split
      · trivial
      · exact ⟨rfl, boot, table, engine, registry.trans (List.prefix_append _ _)⟩
  | addDevice d flags => simp only [hostCall, hostAdd, begun, if_true, NextHas]
  | begin => simp only [hostCall, hostBegin, begun, if_true, NextHas]
  | tick =>
    simp only [hostCall, hostTick, begun, ne_eq, not_true, if_false]
    split
    · exact ⟨begun, boot, table, engine, registry⟩
    · trivial

theorem takeMove_seq (s : State) : (takeMove s).seq = s.seq := by
  unfold takeMove
  split <;> rfl

theorem nextHas_fixedSince_runMove (y : Yield) (m : Move) (hready : Ready s) :
    NextHas (FixedSince s) (runMove y m (takeMove s)) := by
  have hP := keptByOperations_bound (bound s)
  have taken : bound (takeMove s) = bound s := holds_takeMove hP rfl
  have boot : BootFree (takeMove s) := bootFree_of_seq_eq (takeMove_seq s) hready.2
  cases m with
  | drive d =>
    exact fixedSince_of_bound_eq hready (holds_driveLines hP d taken) (bootFree_of_seq_eq (driveLines_seq d _) boot)
  | clock dt => exact fixedSince_of_bound_eq (t := advanceClock _ (takeMove s)) hready taken boot
  | interrupt pin =>
    exact fixedSince_of_bound_eq hready (holds_deliverInterrupt hP pin taken)
      (bootFree_of_seq_eq (deliverInterrupt_seq pin _) boot)
  | engine a => exact nextHas_fixedSince hready (nextHas_engineMove hP y a taken) (bootFree_engineMove y a boot)
  | host c => exact nextHas_fixedSince_hostCall (fixedSince_of_bound_eq hready taken boot) c

theorem nextHas_fixedSince_step (hready : Ready s) : NextHas (FixedSince s) (step s) := by
  have boot : BootFree s := hready.2
  by_cases hy : AtYield s
  · obtain ⟨y, hstep⟩ := step_of_atYield hy
    rw [hstep]
    exact nextHas_fixedSince_runMove y _ hready
  · obtain ⟨i, hstep⟩ | hstep | ⟨e, hstep⟩ | ⟨p, rest, hseq, hstep⟩ := step_cases_of_not_atYield hy
    · rw [hstep]
      exact nextHas_fixedSince hready (boundIs_exec i rfl) (bootFree_exec i boot)
    · rw [hstep]
      exact fixedSince_of_bound_eq hready (bound_epyxReset s.pop)
        (bootFree_of_seq_eq (epyxReset_seq s.pop) (bootFree_pop boot))
    · rw [hstep]
      trivial
    · have parts : p.isBoot = false ∧ rest.any Pos.isBoot = false := by
        simpa [BootFree, hseq] using boot
      rw [hstep]
      exact nextHas_fixedSince hready (boundIs_runPos (s := { s with seq := rest }) parts.1 rfl)
        (bootFree_runPos p parts.2)

/-- Settles O8: a step keeps what only construction and `begin()` write (`bound`) and puts none of their statements on
the sequencer (`BootFree`); a call of the main loop can still append a registry slot. -/
theorem tableIsFixedAfterBegin : Obligations.TableIsFixedAfterBegin := by
  intro s t hready hstep
  have fixed := nextHas_fixedSince_step hready
  rw [hstep] at fixed
  obtain ⟨begun, boot, table, engine, registry⟩ := fixed
  exact ⟨⟨begun, boot⟩, table, engine, registry⟩

end Sys2Proof.Machine

/-! # Proofs for 41_iec_core: the ATN edges and the device table -/

namespace Sys2Proof.Machine

variable {s : State} {rest : List Pos}

/-! ## A step at a statement (10_state R105) -/

theorem step_boot {p : BootPos} (hseq : s.seq = .boot p :: rest) : step s = runBoot p { s with seq := rest } := by
  simp only [step, advance, hseq, runPos]

theorem step_tick {p : TickPos} (hseq : s.seq = .tick p :: rest) : step s = runTick p { s with seq := rest } := by
  simp only [step, advance, hseq, runPos]

theorem step_role {p : RolePos} (hseq : s.seq = .role p :: rest) : step s = runRole p { s with seq := rest } := by
  simp only [step, advance, hseq, runPos]

theorem step_rx {p : RxPos} (hseq : s.seq = .rx p :: rest) : step s = runRx p { s with seq := rest } := by
  simp only [step, advance, hseq, runPos]

theorem step_tx {p : TxPos} (hseq : s.seq = .tx p :: rest) : step s = runTx p { s with seq := rest } := by
  simp only [step, advance, hseq, runPos]

/-! ## The ATN edges (41_iec_core R510, 45_scheduler R902) -/

theorem readLine_eq_high_iff {l : Line} : readLine s l = .high ↔ lineLow s l = false := by
  unfold readLine
  split <;> simp [*]

theorem atnFall_eq (s : State) : atnFall s = { s with
    fl := { s.fl with atnActive := true }
    bus := ⟨.underAtn, false⟩
    drv := { s.drv with clk := false, data := true, ctrlOn := if s.cfg.hasCtrlPin then false else s.drv.ctrlOn }
    addr := ⟨0x00, 0x00, false⟩
    sel := { s.sel with current := none }
    dol := { s.dol with preArm := false }
    dev := s.dev.map Entry.dropTransient } := by
  unfold atnFall override
  cases hpin : s.cfg.hasCtrlPin <;> simp [setClk, setData, hpin]

theorem atnRequest_fall (hlow : readLine s .atn = .low) (hatn : s.fl.atnActive = false) :
    atnRequest s = atnFall s := by
  simp [atnRequest, readLine_eq_low_iff.1 hlow, hatn]

theorem atnRequest_rise (hhigh : readLine s .atn = .high) (hatn : s.fl.atnActive = true) :
    atnRequest s = { s with
      fl := { s.fl with atnActive := false }
      bus := { s.bus with done := false }
      seq := .decode .rise :: s.seq } := by
  simp [atnRequest, readLine_eq_high_iff.1 hhigh, hatn]

/-- ATN is as the engine last saw it. -/
theorem atnRequest_same (hsame : readLine s .atn = .low ↔ s.fl.atnActive = true) : atnRequest s = s := by
  rw [readLine_eq_low_iff] at hsame
  cases hatn : s.fl.atnActive <;> simp_all [atnRequest]

/-- Settles O18: the fall is `atnFall_eq`, and S2 and S7 are `atnRequest` with the next step on the sequencer. -/
theorem atnFallWritesItsFieldsAndKeepsTheRest : Obligations.AtnFallWritesItsFieldsAndKeepsTheRest := by
  refine ⟨atnFall_eq, fun s rest p q hpq hseq => ?_⟩
  have hstep : step s = .next (atnRequest { s with seq := .tick q :: rest }) := by
    rw [step_tick hseq]
    obtain ⟨rfl, rfl⟩ | ⟨rfl, rfl⟩ := hpq <;> rfl
  rw [hstep]
  refine ⟨fun hlow hatn => ?fall, fun hhigh hatn => ?rise, fun hsame => ?same⟩
  case fall => exact congrArg _ (atnRequest_fall (s := { s with seq := .tick q :: rest }) hlow hatn)
  case rise => exact congrArg _ (atnRequest_rise (s := { s with seq := .tick q :: rest }) hhigh hatn)
  case same => exact congrArg _ (atnRequest_same (s := { s with seq := .tick q :: rest }) hsame)

/-! ## The device table (41_iec_core R500 to R502) -/

theorem entryAt_eq_getElem {dev : List Entry} {k : Nat} (h : k < dev.length) : entryAt dev k = dev[k] :=
  List.getD_eq_getElem dev noEntry h

/-- An entry that `find(a)` looks for. -/
def Entry.answers (a : BitVec 5) (e : Entry) : Prop := e.valid = true ∧ e.address = a

theorem find_eq_some_iff {a : BitVec 5} {k : Nat} : find s a = some k ↔
    k < s.dev.length ∧ (entryAt s.dev k).answers a ∧ ∀ j < k, ¬ (entryAt s.dev j).answers a := by
  simp only [find, List.findIdx?_eq_some_iff_getElem, Entry.answers, Bool.and_eq_true, beq_iff_eq]
  constructor
  · rintro ⟨hk, match_k, before⟩
    refine ⟨hk, entryAt_eq_getElem hk ▸ match_k, fun j hj => ?_⟩
    rw [entryAt_eq_getElem (hj.trans hk)]
    exact before j hj
  · rintro ⟨hk, match_k, before⟩
    refine ⟨hk, entryAt_eq_getElem hk ▸ match_k, fun j hj => ?_⟩
    rw [← entryAt_eq_getElem (hj.trans hk)]
    exact before j hj

theorem find_eq_none_iff {a : BitVec 5} :
    find s a = none ↔ ∀ j < s.dev.length, ¬ (entryAt s.dev j).answers a := by
  have match_iff (e : Entry) : (e.valid && e.address == a) = false ↔ ¬ e.answers a := by
    simp [Entry.answers, ← Bool.not_eq_true]
  simp only [find, List.findIdx?_eq_none_iff, match_iff, List.forall_mem_iff_forall_getElem]
  exact forall₂_congr fun j hj => by rw [entryAt_eq_getElem hj]

/-- In a table that `add_device` made no entry has the address 31 (R501). -/
theorem find_31 (h : tableOk s) : find s 31 = none := by
  obtain ⟨-, -, entries⟩ := h
  refine find_eq_none_iff.2 fun j hj hanswers => ?_
  rw [entryAt_eq_getElem hj] at hanswers
  exact (entries _ (List.getElem_mem hj)).2.1 hanswers.2

theorem index_eq_of_address_eq {i j : Nat} (h : tableOk s) (hi : i < s.dev.length) (hj : j < s.dev.length)
    (heq : (entryAt s.dev i).address = (entryAt s.dev j).address) : i = j := by
  obtain ⟨-, distinct, -⟩ := h
  rw [entryAt_eq_getElem hi, entryAt_eq_getElem hj] at heq
  exact (distinct.getElem_inj_iff (hi := by simpa using hi) (hj := by simpa using hj)).1 (by simpa using heq)

/-- Settles O21: `find` is the list's first match, and `tableOk` has distinct addresses below 31. -/
theorem findIsTheLeastMatchingIndex : Obligations.FindIsTheLeastMatchingIndex := by
  intro s a
  refine ⟨fun k => find_eq_some_iff.trans (and_congr_right fun _ => and_assoc), find_eq_none_iff, fun hok =>
    ⟨find_31 hok, fun i j hi hj hia hja => index_eq_of_address_eq hok hi hj (hia.trans hja.symm)⟩⟩

theorem addDevice_refused {h : Handle} {flags : BitVec 12} (hrefuse : s.work.answer.addr = 31 ∨
      (∃ e ∈ s.dev, e.valid = true ∧ e.address = s.work.answer.addr) ∨ s.cfg.maxDevices ≤ s.dev.length) :
    addDevice h flags s = s := by
  unfold addDevice
  refine if_pos ?_
  simpa only [List.any_eq_true, Bool.and_eq_true, beq_iff_eq] using hrefuse

theorem addDevice_entered {h : Handle} {flags : BitVec 12} (haddr : s.work.answer.addr ≠ 31)
    (hnew : ∀ e ∈ s.dev, e.address ≠ s.work.answer.addr) (hroom : s.dev.length < s.cfg.maxDevices) :
    addDevice h flags s = { s with dev := s.dev ++ [⟨true, s.work.answer.addr,
      flags &&& persistentMask &&& wiredMask s.cfg, h, flags &&& persistentMask &&& wiredMask s.cfg⟩] } := by
  unfold addDevice
  refine if_neg ?_
  simp only [List.any_eq_true, Bool.and_eq_true, beq_iff_eq, not_or, not_exists, not_and]
  exact ⟨haddr, fun e he _ => hnew e he, Nat.not_le.2 hroom⟩

/-- Settles O22: the statement after `address()` is `addDevice`. -/
theorem addDeviceEntersOrRefuses : Obligations.AddDeviceEntersOrRefuses := by
  rintro s h flags rest a hseq rfl hvalid
  rw [step_boot hseq]
  refine ⟨fun hrefuse => congrArg _ (addDevice_refused (s := { s with seq := rest }) ?_), fun haddr hnew hroom =>
    ⟨_, congrArg _ (addDevice_entered (s := { s with seq := rest }) haddr hnew hroom), rfl, rfl, rfl, rfl⟩⟩
  exact hrefuse.imp_right (Or.imp_left fun ⟨e, he, hea⟩ => ⟨e, he, hvalid e he, hea⟩)

end Sys2Proof.Machine

/-! # Proofs for 41_iec_core: primaries and secondaries under ATN, and at the ATN rise -/

namespace Sys2Proof.Machine

variable {s : State} {rest : List Pos} {i : Instr} {b : Byte} {k : Nat}

/-! ## The bytes of a transaction under ATN (41_iec_core R520 to R523) -/

theorem captureAddress_found {rx : Byte} {a : BitVec 5} (hfind : find s a = some k) :
    captureAddress rx a s = .next ({ setPrimary rx s with sel := { s.sel with current := some k } }.call
      (.primaryAddress k rx) [.rx (.ack rx false false)]) := by
  have found : find (setPrimary rx s) a = some k := hfind
  simp only [captureAddress, found, setPrimary_sel]

theorem captureAddress_unmatched {rx : Byte} {a : BitVec 5} (hfind : find s a = none) :
    captureAddress rx a s = .next (setPrimary rx s) := by
  have unmatched : find (setPrimary rx s) a = none := hfind
  simp only [captureAddress, unmatched]

theorem exec_address_underAtn {a : BitVec 5} {rx : Byte} (hatn : s.fl.atnActive = true)
    (hi : i = .listen a ∧ rx = 0x20 ||| a.setWidth 8 ∨ i = .talk a ∧ rx = 0x40 ||| a.setWidth 8) :
    exec i s = captureAddress rx a s.pop := by
  obtain ⟨rfl, rfl⟩ | ⟨rfl, rfl⟩ := hi
  · exact listenByte_eq a ▸ if_pos hatn
  · exact talkByte_eq a ▸ if_pos hatn

/-- Settles O24: LISTEN and TALK are `captureAddress`, by the answer of `find`; the other two are acknowledged. -/
theorem addressingSelectsTheMatchingDevice : Obligations.AddressingSelectsTheMatchingDevice := by
  intro s addr i rx hatn _
  refine ⟨fun hi => ⟨fun k hfind => ?found, fun hfind => ?unmatched⟩, fun hi => ?ended⟩
  case found => exact (exec_address_underAtn hatn hi).trans (captureAddress_found (s := s.pop) hfind)
  case unmatched => exact (exec_address_underAtn hatn hi).trans (captureAddress_unmatched (s := s.pop) hfind)
  case ended =>
    obtain ⟨rfl, rfl⟩ | ⟨rfl, rfl⟩ := hi
    · exact exec_unlisten_underAtn hatn
    · exact exec_untalk_underAtn hatn

theorem isCommand_of_decode_secondary (h : decode .sec [b] = .ok i) : IsCommand .sec [b] i :=
  Except.ok.inj h ▸ isCommand_decodeSecondary b

/-- Under ATN every secondary is captured as the byte it was. -/
theorem exec_secondary_underAtn (hi : IsCommand .sec [b] i) (hatn : s.fl.atnActive = true) :
    exec i s = captureSecondary b s.pop := by
  obtain ⟨hformat, -, hword⟩ := hi
  cases i <;> cases hformat <;> obtain rfl := List.singleton_inj.1 hword <;> exact if_pos hatn

/-- The addressing registers with a captured secondary. -/
def setSecondary (b : Byte) (s : State) : State := { s with addr := { s.addr with secondary := b, secValid := true } }

theorem addressed_iff : addressed s = true ↔
    s.addr.primary = 0x3F ∨ s.addr.primary = 0x5F ∨ s.sel.current.isSome = true := by
  simp only [addressed, Bool.or_eq_true, beq_iff_eq, or_assoc]

theorem captureSecondary_selected (hcur : s.sel.current = some k) :
    captureSecondary b s =
      .next ((setSecondary b s).call (.secondaryAddress k b) [.rx (.ack b false true)]) := by
  simp [captureSecondary, addressed, setSecondary, hcur]

theorem captureSecondary_ended (hcur : s.sel.current = none) (hpri : s.addr.primary = 0x3F ∨ s.addr.primary = 0x5F) :
    captureSecondary b s = rxAck b false true (setSecondary b s) := by
  obtain hpri | hpri := hpri <;> simp [captureSecondary, addressed, setSecondary, hcur, hpri]

theorem captureSecondary_other (hcur : s.sel.current = none) (hlisten : s.addr.primary ≠ 0x3F)
    (htalk : s.addr.primary ≠ 0x5F) : captureSecondary b s = .next (setSecondary b s) := by
  have unaddressed : addressed (setSecondary b s) = false := by
    rw [← Bool.not_eq_true, addressed_iff]
    simp only [setSecondary, hcur, Option.isSome_none, Bool.false_eq_true, or_false, not_or]
    exact ⟨hlisten, htalk⟩
  unfold captureSecondary
  exact if_pos ((Bool.not_eq_true' _).mpr unaddressed)

/-- The acknowledge of a byte under ATN, with the probe where the byte is a new non-zero secondary. -/
theorem rxAck_newSecondary (hatn : s.fl.atnActive = true) (hvalid : s.addr.secValid = true)
    (hsec : s.addr.secondary = b) : rxAck b false true s =
      if b = 0x00 then .next (setData true s) else probeIfArmed s.sel.current (setData true s) := by
  by_cases hb : b = 0x00 <;> simp [rxAck, hatn, hvalid, hsec, hb]

/-- Without a selected device there is no cable to probe. -/
theorem rxAck_newSecondary_unselected (hatn : s.fl.atnActive = true) (hvalid : s.addr.secValid = true)
    (hsec : s.addr.secondary = b) (hcur : s.sel.current = none) : rxAck b false true s = .next (setData true s) := by
  rw [rxAck_newSecondary hatn hvalid hsec, hcur]
  exact ite_self _

/-- Settles O27: `captureSecondary` by whether a device is selected and by the captured primary. -/
theorem secondaryIsCapturedUnchanged : Obligations.SecondaryIsCapturedUnchanged := by
  intro s i b hdecode hatn _ _
  have meaning := exec_secondary_underAtn (isCommand_of_decode_secondary hdecode) hatn
  refine ⟨fun k hcur => ?selected, fun hcur hpri => ?ended, fun hcur hlisten htalk => ?other⟩
  case selected => exact meaning.trans (captureSecondary_selected (s := s.pop) hcur)
  case ended =>
    exact (meaning.trans (captureSecondary_ended (s := s.pop) hcur hpri)).trans
      (rxAck_newSecondary_unselected (s := setSecondary b s.pop) hatn rfl rfl hcur)
  case other => exact meaning.trans (captureSecondary_other (s := s.pop) hcur hlisten htalk)

theorem probeIfArmed_on (h : dolphinOn s k = true) :
    probeIfArmed (some k) s = .next (s.waitHr .low 0 false [.rx (.probe k), .dol .returned]) := if_pos h

theorem probeIfArmed_off (h : dolphinOn s k = false) : probeIfArmed (some k) s = .next s :=
  if_neg (Bool.eq_false_iff.1 h)

/-- Settles O28: the acknowledge goes on to `probeIfArmed`, which asks `dolphinOn`. -/
theorem newSecondaryIsAcknowledgedThenProbed : Obligations.NewSecondaryIsAcknowledgedThenProbed := by
  intro s b k rest hseq hatn hvalid hsec hcur
  have acked := (step_rx hseq).trans (rxAck_newSecondary (s := { s with seq := rest }) hatn hvalid hsec)
  simp only [hcur] at acked
  refine ⟨fun hb hon => ?probed, fun hquiet => acked.trans ?quiet⟩
  case probed =>
    have probed := probeIfArmed_on (s := setData true { s with seq := rest }) hon
    exact ⟨_, acked.trans ((if_neg hb).trans probed), rfl, rfl⟩
  case quiet =>
    split
    · rfl
    · next hb => exact probeIfArmed_off (s := setData true { s with seq := rest }) (hquiet.resolve_left hb)

/-! ## The ATN rise (41_iec_core R512) -/

/-- The role of a captured primary is that of its decode. -/
theorem riseRole_listen {a : BitVec 5} (hpri : decode .pri [s.addr.primary] = .ok (.listen a))
    (hcur : s.sel.current = some k) : riseRole b s = doListen k b s := by
  have hrole : roleOf s.addr.primary = .listen := by rw [roleOf, Except.ok.inj hpri]
  simp only [riseRole, hrole, hcur]

theorem riseRole_talk {a : BitVec 5} (hpri : decode .pri [s.addr.primary] = .ok (.talk a))
    (hcur : s.sel.current = some k) : riseRole b s = doTalk k b s := by
  have hrole : roleOf s.addr.primary = .talk := by rw [roleOf, Except.ok.inj hpri]
  simp only [riseRole, hrole, hcur]

theorem riseRole_unselected {a : BitVec 5} (hcur : s.sel.current = none)
    (hpri : decode .pri [s.addr.primary] = .ok (.listen a) ∨ decode .pri [s.addr.primary] = .ok (.talk a)) :
    riseRole b s = .next (goIdle s) := by
  obtain hpri | hpri := hpri
  · have hrole : roleOf s.addr.primary = .listen := by rw [roleOf, Except.ok.inj hpri]
    simp only [riseRole, hrole, hcur, notForUs]
  · have hrole : roleOf s.addr.primary = .talk := by rw [roleOf, Except.ok.inj hpri]
    simp only [riseRole, hrole, hcur, notForUs]

theorem riseRole_unlisten (hpri : s.addr.primary = 0x3F) : riseRole b s = doUnlisten s := by
  have hrole : roleOf s.addr.primary = .unlisten := by rw [hpri]; rfl
  simp only [riseRole, hrole]

theorem riseRole_untalk (hpri : s.addr.primary = 0x5F) : riseRole b s = doUntalk s := by
  have hrole : roleOf s.addr.primary = .untalk := by rw [hpri]; rfl
  simp only [riseRole, hrole]

/-- A byte that no role is asked for with: 0x00, or reserved (30_encoding R340). -/
theorem roleOf_eq_none {p : Byte} (hp : p ≤ 0x1F ∨ 0x60 ≤ p) : roleOf p = .none := by
  revert p; decide

theorem riseRole_none (hpri : s.addr.primary ≤ 0x1F ∨ 0x60 ≤ s.addr.primary) :
    riseRole b s = .next (goIdle s) := by
  simp only [riseRole, roleOf_eq_none hpri, notForUs]

/-- A captured secondary goes with the captured primary, unless it is the ignored 0xEF of a selected device. -/
theorem exec_secondary_rise (hi : IsCommand .sec [b] i) (hatn : s.fl.atnActive = false)
    (hb : b ≠ 0xEF ∨ s.sel.current = none) : exec i s = riseRole b s.pop := by
  have atRise : ¬ s.fl.atnActive = true := Bool.eq_false_iff.1 hatn
  obtain ⟨hformat, -, hword⟩ := hi
  cases i <;> cases hformat <;> obtain rfl := List.singleton_inj.1 hword
  case close15Ignored =>
    have unselected : ¬ s.sel.current.isSome = true := by simp [hb.resolve_left (not_not.2 rfl)]
    exact (if_neg atRise).trans (if_neg unselected)
  all_goals exact if_neg atRise

theorem exec_close15_rise (hatn : s.fl.atnActive = false) (hcur : s.sel.current = some k) :
    exec .close15Ignored s = .next (goIdle s.pop) :=
  (if_neg (Bool.eq_false_iff.1 hatn)).trans (if_pos (by rw [hcur]; rfl))

/-- Settles O34. -/
theorem closeOfChannel15IsIgnored : Obligations.CloseOfChannel15IsIgnored :=
  fun _ _ hatn hcur => exec_close15_rise hatn hcur

theorem exec_address_rise_unselected (hatn : s.fl.atnActive = false) (hcur : s.sel.current = none)
    (hi : (∃ a, i = .listen a) ∨ ∃ a, i = .talk a) : exec i s = .next (goIdle s.pop) := by
  have atRise : ¬ s.fl.atnActive = true := Bool.eq_false_iff.1 hatn
  obtain ⟨a, rfl⟩ | ⟨a, rfl⟩ := hi <;> refine (if_neg atRise).trans ?_ <;> rw [hcur] <;> rfl

/-- Settles O33: without a role, or for another device, every form ends in `goIdle`. A captured 0xEF ends there too, for
a selected device by `exec_close15_rise`. -/
theorem notForUsReleasesTheLinesAndKeepsTheRoles : Obligations.NotForUsReleasesTheLinesAndKeepsTheRoles := by
  intro s i hatn hi
  have atRise : ¬ s.fl.atnActive = true := Bool.eq_false_iff.1 hatn
  show exec i s = .next (goIdle s.pop)
  obtain ⟨hcur, hi⟩ | rfl | ⟨low, rfl⟩ | ⟨low, rfl⟩ | ⟨low, rfl⟩ | ⟨⟨b, hdecode⟩, hpri⟩ := hi
  case inl => exact exec_address_rise_unselected hatn hcur hi
  case inr.inr.inr.inr.inr =>
    have hsec := isCommand_of_decode_secondary hdecode
    by_cases hb : b ≠ 0xEF ∨ s.sel.current = none
    · rw [exec_secondary_rise hsec hatn hb]
      obtain ⟨hcur, a, hpri⟩ | hpri := hpri
      · exact riseRole_unselected (s := s.pop) hcur hpri
      · exact riseRole_none (s := s.pop) hpri
    · obtain ⟨hb, hcur⟩ := not_or.1 hb
      obtain ⟨k, hcur⟩ := Option.ne_none_iff_exists'.1 hcur
      obtain rfl := not_not.1 hb
      obtain rfl : Instr.close15Ignored = i := Except.ok.inj hdecode
      exact exec_close15_rise hatn hcur
  all_goals exact if_neg atRise

/-! ## LISTEN and TALK at the ATN rise (41_iec_core R513, R514) -/

/-- What an ATN rise finds captured where it runs the role of the primary `cmd` with the secondary `b`: both bytes, but
for the ignored 0xEF, or the primary alone, whose secondary is then 0x00. `i` is the command that is decoded. -/
def RiseCaptured (cmd : Instr) (r : AddrRegs) (i : Instr) (b : Byte) : Prop :=
  decode .sec [b] = .ok i ∧ b ≠ 0xEF ∧ decode .pri [r.primary] = .ok cmd ∨ i = cmd ∧ r.secValid = false ∧ b = 0x00

theorem exec_listen_rise {a : BitVec 5} (hi : RiseCaptured (.listen a) s.addr i b) (hatn : s.fl.atnActive = false)
    (hcur : s.sel.current = some k) : exec i s = doListen k b s.pop := by
  obtain ⟨hdecode, hb, hpri⟩ | ⟨rfl, hvalid, rfl⟩ := hi
  · exact (exec_secondary_rise (isCommand_of_decode_secondary hdecode) hatn (.inl hb)).trans
      (riseRole_listen (s := s.pop) hpri hcur)
  · simp [exec, execListen, hatn, hcur, riseSec, hvalid]

theorem exec_talk_rise {a : BitVec 5} (hi : RiseCaptured (.talk a) s.addr i b) (hatn : s.fl.atnActive = false)
    (hcur : s.sel.current = some k) : exec i s = doTalk k b s.pop := by
  obtain ⟨hdecode, hb, hpri⟩ | ⟨rfl, hvalid, rfl⟩ := hi
  · exact (exec_secondary_rise (isCommand_of_decode_secondary hdecode) hatn (.inl hb)).trans
      (riseRole_talk (s := s.pop) hpri hcur)
  · simp [exec, execTalk, hatn, hcur, riseSec, hvalid]

theorem doListen_flushes (hheld : s.dol.preN ≠ 0) (hother : ¬ (k = s.dol.preDev ∧ (b = 0x61 ∨ b = 0x6F))) :
    doListen k b s = dolFlush [.role (.listenFlushed k b)] s :=
  (if_neg fun h => hother h.2).trans (if_neg hheld)

theorem doListen_goes_on (hkept : s.dol.preN = 0 ∨ k = s.dol.preDev ∧ (b = 0x61 ∨ b = 0x6F)) :
    doListen k b s = listenFlushed k b s := by
  unfold doListen flushBeforeCall
  split
  · rfl
  · next h => exact if_pos (hkept.resolve_right fun hk => h ⟨rfl, hk⟩)

theorem doTalk_flushes (hheld : s.dol.preN ≠ 0) : doTalk k b s = dolFlush [.role (.talkFlushed k b)] s :=
  by simp [doTalk, flushBeforeCall, flushThen, hheld]

theorem doTalk_goes_on (hnone : s.dol.preN = 0) : doTalk k b s = talkFlushed k b s :=
  by simp [doTalk, flushBeforeCall, flushThen, hnone]

theorem listenFlushed_free (hfree : s.sel.listener = none ∨ s.sel.listener = some k) :
    listenFlushed k b s = listenFree k b s := by
  obtain hfree | hfree := hfree <;> simp [listenFlushed, hfree]

theorem listenFlushed_evicts {j : Nat} (hlistener : s.sel.listener = some j) (hj : j ≠ k) :
    listenFlushed k b s = .next (s.call (.unlisten j) [.role (.listenFree k b)]) := by
  simp [listenFlushed, hlistener, hj]

theorem talkFlushed_free (hfree : s.sel.talker = none ∨ s.sel.talker = some k) :
    talkFlushed k b s = talkFree k b s := by
  obtain hfree | hfree := hfree <;> simp [talkFlushed, hfree]

theorem talkFlushed_evicts {j : Nat} (htalker : s.sel.talker = some j) (hj : j ≠ k) :
    talkFlushed k b s = .next (s.call (.untalk j) [.role (.talkFree k b)]) := by
  simp [talkFlushed, htalker, hj]

/-- The registers of a new listen role. -/
theorem listenFree_next (k : Nat) (b : Byte) (s : State) : ∃ t, listenFree k b s = .next t ∧
    t.sel = { s.sel with listener := some k, listenerSec := b } ∧
    t.cmd = { s.cmd with
      len := if b = 0x6F then 0 else s.cmd.len
      overflow := if b = 0x6F then false else s.cmd.overflow } ∧
    (t.dol.preArm = true ↔ b = 0x61 ∧ s.flag k .dolphinDetected = true) ∧
    t.seq = .yield (.call (.listen k b)) :: .role .listenDone :: s.seq ∧
    t = { s with sel := t.sel, cmd := t.cmd, dol := { s.dol with preArm := t.dol.preArm }, seq := t.seq } := by
  refine ⟨_, rfl, rfl, ?capture, ?armed, rfl, rfl⟩
  case capture =>
    by_cases hb : b = 0x6F
    · simp only [if_pos hb, State.call_cmd]
    · simp only [if_neg hb, State.call_cmd]
  case armed => simp

/-- Without held bytes the decode of a LISTEN at the rise is the listen that follows a flush, or an eviction. -/
theorem exec_listen_resumed {a : BitVec 5} (hi : RiseCaptured (.listen a) s.addr i b) (hatn : s.fl.atnActive = false)
    (hcur : s.sel.current = some k) (hnone : s.dol.preN = 0) (l : Option Nat) :
    exec i { s with seq := .decode .rise :: rest, sel := { s.sel with listener := l } } =
      listenFlushed k b { s with seq := rest, sel := { s.sel with listener := l } } :=
  (exec_listen_rise (s := { s with seq := .decode .rise :: rest, sel := { s.sel with listener := l } })
    hi hatn hcur).trans (doListen_goes_on (.inl hnone))

/-- Settles O29: a LISTEN at the rise is `doListen`, which flushes held bytes, tells another listener, and then takes
the role. -/
theorem listenGivesTheListenRole : Obligations.ListenGivesTheListenRole := by
  intro s i b a k (hi : RiseCaptured (.listen a) s.addr i b) hatn hcur
  have meaning := exec_listen_rise hi hatn hcur
  refine ⟨fun hheld hother => meaning.trans (doListen_flushes (s := s.pop) hheld hother), fun hkept => ?roles,
    fun u rest => ⟨fun hseq => step_role hseq, fun uatn ucur uaddr unone => ?resumed⟩⟩
  case roles =>
    have goesOn := meaning.trans (doListen_goes_on (s := s.pop) hkept)
    refine ⟨fun hfree => ?free, fun j hlistener hj => goesOn.trans (listenFlushed_evicts (s := s.pop) hlistener hj)⟩
    rw [goesOn, listenFlushed_free (s := s.pop) hfree]
    exact listenFree_next k b s.pop
  case resumed =>
    have again := exec_listen_resumed (rest := rest) (uaddr ▸ hi) uatn ucur unone
    exact ⟨fun hseq => (step_role hseq).trans (again u.sel.listener).symm, fun hseq =>
      (step_role hseq).trans ((again none).trans (listenFlushed_free (.inl rfl))).symm⟩

/-! ### The talk role -/

/-- The registers of a new talk role, with block mode on 0x61 (42_jiffydos R608); the block flag is no other one. -/
theorem talkFree_eq (k : Nat) (b : Byte) (s : State) : talkFree k b s = .next { s with
    dev := if blockEntry k b s then (s.setFlag k .jiffyBlock).dev else s.dev
    sel := { s.sel with talker := some k, talkerSec := if blockEntry k b s then 0x60 else b }
    talk := { s.talk with txFirst := true }
    dol := { s.dol with capN := if s.flag k .dolphinDetected then 0 else s.dol.capN }
    seq := .yield (.call (.talk k (if blockEntry k b s then 0x60 else b))) :: .role .talkCalled :: s.seq } := by
  have sameFlag : (if blockEntry k b s then s.setFlag k .jiffyBlock else s).flag k .dolphinDetected =
      s.flag k .dolphinDetected := by
    split
    · simp [State.flag_setFlag]
    · rfl
  unfold talkFree
  simp only [sameFlag]
  cases blockEntry k b s <;> cases s.flag k .dolphinDetected <;> rfl

theorem blockEntry_iff : blockEntry k b s = true ↔ s.flag k .jiffyDetected = true ∧ b = 0x61 := by
  simp only [blockEntry, Bool.and_eq_true, beq_iff_eq]

theorem talkFree_next (k : Nat) (b : Byte) (s : State) : ∃ t sec, talkFree k b s = .next t ∧
    (s.flag k .jiffyDetected = true ∧ b = 0x61 → sec = 0x60 ∧ t.dev = (s.setFlag k .jiffyBlock).dev) ∧
    (¬ (s.flag k .jiffyDetected = true ∧ b = 0x61) → sec = b ∧ t.dev = s.dev) ∧
    t.sel = { s.sel with talker := some k, talkerSec := sec } ∧ t.talk = { s.talk with txFirst := true } ∧
    t.dol = { s.dol with capN := if s.flag k .dolphinDetected then 0 else s.dol.capN } ∧
    t.seq = .yield (.call (.talk k sec)) :: .role .talkCalled :: s.seq ∧
    t = { s with dev := t.dev, sel := t.sel, talk := t.talk, dol := t.dol, seq := t.seq } := by
  refine ⟨_, _, talkFree_eq k b s, fun hblock => ?block, fun hno => ?noBlock, rfl, rfl, rfl, rfl, rfl⟩
  case block => exact ⟨if_pos (blockEntry_iff.2 hblock), if_pos (blockEntry_iff.2 hblock)⟩
  case noBlock => exact ⟨if_neg (mt blockEntry_iff.1 hno), if_neg (mt blockEntry_iff.1 hno)⟩

/-- The talk role forgets who talked before. -/
theorem talkFree_talker (k : Nat) (b : Byte) (l : Option Nat) (s : State) :
    talkFree k b { s with sel := { s.sel with talker := l } } = talkFree k b s := by
  rw [talkFree_eq, talkFree_eq]
  rfl

theorem exec_talk_resumed {a : BitVec 5} (hi : RiseCaptured (.talk a) s.addr i b) (hatn : s.fl.atnActive = false)
    (hcur : s.sel.current = some k) (hnone : s.dol.preN = 0) (l : Option Nat) :
    exec i { s with seq := .decode .rise :: rest, sel := { s.sel with talker := l } } =
      talkFlushed k b { s with seq := rest, sel := { s.sel with talker := l } } :=
  (exec_talk_rise (s := { s with seq := .decode .rise :: rest, sel := { s.sel with talker := l } })
    hi hatn hcur).trans (doTalk_goes_on hnone)

/-- Settles O30: a TALK at the rise is `doTalk`, which flushes held bytes, tells another talker, and then takes the
role. -/
theorem talkGivesTheTalkRole : Obligations.TalkGivesTheTalkRole := by
  intro s i b a k (hi : RiseCaptured (.talk a) s.addr i b) hatn hcur
  have meaning := exec_talk_rise hi hatn hcur
  refine ⟨fun hheld => meaning.trans (doTalk_flushes (s := s.pop) hheld), fun hnone => ?roles,
    fun u rest => ⟨fun hseq => step_role hseq, fun hseq => step_role hseq, fun uatn ucur uaddr unone => ?resumed⟩⟩
  case roles =>
    have goesOn := meaning.trans (doTalk_goes_on (s := s.pop) hnone)
    refine ⟨fun hfree => ?free, fun j htalker hj => goesOn.trans (talkFlushed_evicts (s := s.pop) htalker hj)⟩
    rw [goesOn, talkFlushed_free (s := s.pop) hfree]
    exact talkFree_next k b s.pop
  case resumed =>
    have again := exec_talk_resumed (rest := rest) (uaddr ▸ hi) uatn ucur unone
    refine ⟨fun hseq => (step_role hseq).trans (again u.sel.talker).symm, fun hseq => ?evicted⟩
    rw [step_role hseq, again none, talkFlushed_free (.inl rfl)]
    exact (talkFree_talker k b none { u with seq := rest }).symm

/-! ## UNLISTEN and UNTALK at the ATN rise (41_iec_core R515, R516) -/

theorem exec_unlisten_rise (hatn : s.fl.atnActive = false) (hi : i = .unlisten ∨
      s.addr.primary = 0x3F ∧ ∃ b, decode .sec [b] = .ok i ∧ (b ≠ 0xEF ∨ s.sel.current = none)) :
    exec i s = doUnlisten s.pop := by
  obtain rfl | ⟨hpri, b, hdecode, hb⟩ := hi
  · exact if_neg (Bool.eq_false_iff.1 hatn)
  · exact (exec_secondary_rise (isCommand_of_decode_secondary hdecode) hatn hb).trans
      (riseRole_unlisten (s := s.pop) hpri)

theorem exec_untalk_rise (hatn : s.fl.atnActive = false) (hi : i = .untalk ∨
      s.addr.primary = 0x5F ∧ ∃ b, decode .sec [b] = .ok i ∧ (b ≠ 0xEF ∨ s.sel.current = none)) :
    exec i s = doUntalk s.pop := by
  obtain rfl | ⟨hpri, b, hdecode, hb⟩ := hi
  · exact if_neg (Bool.eq_false_iff.1 hatn)
  · exact (exec_secondary_rise (isCommand_of_decode_secondary hdecode) hatn hb).trans
      (riseRole_untalk (s := s.pop) hpri)

theorem doUnlisten_none (hl : s.sel.listener = none) : doUnlisten s = .next (unlistenEnd s) := by
  simp only [doUnlisten, hl]

theorem doUnlisten_command (hl : s.sel.listener = some k) (hsec : s.sel.listenerSec = 0x6F) (hlen : 0 < s.cmd.len) :
    doUnlisten s = .next (s.push [.decode (.cmd15 k), .role (.unlisten k)]) := by
  simp only [doUnlisten, hl]
  exact if_pos ⟨hsec, hlen⟩

theorem doUnlisten_calls (hl : s.sel.listener = some k) (hno : s.sel.listenerSec ≠ 0x6F ∨ s.cmd.len = 0) :
    doUnlisten s = .next (s.call (.unlisten k) [.role .unlistenDone]) := by
  simp only [doUnlisten, hl]
  exact if_neg fun h => hno.elim (· h.1) h.2.ne'

theorem doUntalk_none (ht : s.sel.talker = none) : doUntalk s = .next (goIdle s) := by
  simp only [doUntalk, ht]

theorem doUntalk_calls (ht : s.sel.talker = some k) :
    doUntalk s = .next (s.call (.untalk k) [.role .untalkDone]) := by
  simp only [doUntalk, ht]

/-- Settles O32: at the rise the two are `doUnlisten` and `doUntalk`, by whether there is a listener with a captured
command, and a talker. -/
theorem unlistenAndUntalkEndTheirRoles : Obligations.UnlistenAndUntalkEndTheirRoles := by
  intro s i rest
  refine ⟨fun hatn hi => ?unlisten, fun hatn hi => ?untalk, fun k hseq => step_role hseq, fun hseq => step_role hseq,
    fun hseq => step_role hseq⟩
  case unlisten =>
    rw [exec_unlisten_rise hatn hi]
    exact ⟨doUnlisten_none (s := s.pop), fun k => doUnlisten_command (s := s.pop),
      fun k => doUnlisten_calls (s := s.pop)⟩
  case untalk =>
    rw [exec_untalk_rise hatn hi]
    exact ⟨doUntalk_none (s := s.pop), fun k => doUntalk_calls (s := s.pop)⟩

end Sys2Proof.Machine

/-! # Proofs for 41_iec_core: the standard byte -/

namespace Sys2Proof.Machine

variable {s : State} {rest : List Pos} {k : Nat} {b : Byte} {eoi : Bool}

/-! ## Receive (41_iec_core R530 to R536) -/

theorem rxEoiTest_reached (hwait : s.work.wait = .reached) :
    rxEoiTest s = .next (s.push [.rx (.bit 0 0x00 false)]) := by
  simp only [rxEoiTest, hwait]

theorem rxEoiTest_timeout_underAtn (hwait : s.work.wait = .timeout) (hatn : s.fl.atnActive = true) :
    rxEoiTest s = .next (s.waitFor .clk .low 0 [.rx (.bit 0 0x00 false)]) := by
  simp only [rxEoiTest, hwait, if_pos hatn]

theorem rxEoiTest_timeout (hwait : s.work.wait = .timeout) (hatn : s.fl.atnActive = false) :
    rxEoiTest s = pulseLow .data s.cfg.tIecEoiPulse true [.rx .eoiPulsed] s := by
  simp only [rxEoiTest, hwait, if_neg (Bool.eq_false_iff.1 hatn)]

/-- Settles O48: `rxEoiTest` by the wait's result and by `atn_active`. -/
theorem eoiIsATimeoutOutsideAtn : Obligations.EoiIsATimeoutOutsideAtn := by
  intro s rest
  refine ⟨fun hseq hwait => (step_rx hseq).trans (rxEoiTest_reached (s := { s with seq := rest }) hwait),
    fun hseq hwait hatn =>
      (step_rx hseq).trans (rxEoiTest_timeout_underAtn (s := { s with seq := rest }) hwait hatn),
    fun hseq hwait hatn => (step_rx hseq).trans (rxEoiTest_timeout (s := { s with seq := rest }) hwait hatn),
    fun hseq => step_rx hseq⟩

/-- A bit that was clear takes the level, and every other bit stays (30_encoding R320). -/
theorem getLsbD_putBit {i j : Nat} (bit : Bool) (hclear : b.getLsbD i = false) (hj : j < 8) :
    (putBit b i bit).getLsbD j = if j = i then bit else b.getLsbD j := by
  cases bit with
  | false =>
    show b.getLsbD j = _
    split
    · next h => rw [h, hclear]
    · rfl
  | true =>
    show (b ||| BitVec.twoPow 8 i).getLsbD j = _
    rw [BitVec.getLsbD_or, BitVec.getLsbD_twoPow]
    by_cases h : j = i
    · simp [← h, hj]
    · simp [h, Ne.symm h]

/-- Settles O49: the sample is `putBit` of DATA's level. -/
theorem receivedBitsArriveLsbFirst : Obligations.ReceivedBitsArriveLsbFirst := by
  intro s i rx eoi rest hseq _ hclear
  refine ⟨putBit rx i (readLine s .data == .high), fun j hj => ?_, step_rx hseq⟩
  rw [getLsbD_putBit _ hclear hj, beq_eq_decide]

/-! ## The delivery of a data byte (41_iec_core R524, R526) -/

/-- Bytes of a SAVE are held for the listener `k`, and go before its next byte (43_dolphindos R705). -/
def HeldFor (k : Nat) (s : State) : Prop :=
  0 < s.dol.preN ∧ s.dol.preDev = k ∧ s.sel.listener = some k ∧ s.sel.listenerSec = 0x61

/-- The command capture after a byte for channel `sec`. -/
def capturedCmd (max : Nat) (sec b : Byte) (c : CmdRegs) : CmdRegs :=
  if sec ≠ 0x6F then c
  else if c.len < max then { c with buf := memSet c.buf c.len b, len := c.len + 1 }
  else { c with overflow := true }

theorem capture_eq (b : Byte) (s : State) : (if s.sel.listenerSec = 0x6F then cmdAppend b s else s) =
    { s with cmd := capturedCmd s.cfg.cmd15Max s.sel.listenerSec b s.cmd } := by
  unfold capturedCmd cmdAppend
  by_cases hsec : s.sel.listenerSec = 0x6F
  · rw [if_pos hsec, if_neg (not_not.2 hsec)]
    split <;> rfl
  · rw [if_neg hsec, if_pos hsec]

/-- With nothing held for the listener the byte goes to the device at once. -/
theorem deliver_free (hfree : ¬ HeldFor k s) : deliver k b eoi s =
    .next ({ s with cmd := capturedCmd s.cfg.cmd15Max s.sel.listenerSec b s.cmd }.push
      [.yield (.call (.write k b eoi))]) := by
  unfold deliver
  rw [capture_eq]
  exact if_neg hfree

theorem capturedCmd_other {max : Nat} {sec : Byte} {c : CmdRegs} (hsec : sec ≠ 0x6F) : capturedCmd max sec b c = c :=
  if_pos hsec

theorem capturedCmd_room {max : Nat} {sec : Byte} {c : CmdRegs} (hsec : sec = 0x6F) (hroom : c.len < max) :
    (capturedCmd max sec b c).len = c.len + 1 ∧ (capturedCmd max sec b c).overflow = c.overflow ∧
      ∀ a, memGet (capturedCmd max sec b c).buf a = if a = c.len then some b else memGet c.buf a := by
  rw [capturedCmd, if_neg (not_not.2 hsec), if_pos hroom]
  exact ⟨rfl, rfl, fun a => memGet_memSet _ _ _ _⟩

theorem capturedCmd_full {max : Nat} {sec : Byte} {c : CmdRegs} (hsec : sec = 0x6F) (hfull : max ≤ c.len) :
    capturedCmd max sec b c = { c with overflow := true } :=
  (if_neg (not_not.2 hsec)).trans (if_neg (Nat.not_lt.2 hfull))

/-- Outside ATN a complete byte is acknowledged, and delivered to the selected device. -/
theorem rxByte_data (hatn : s.fl.atnActive = false) (hcur : s.sel.current = some k) :
    rxByte b eoi s = deliver k b eoi (setData true s) := by
  simp [rxByte, rxAck, withCurrent, hatn, hcur]

/-- Settles O50: the byte goes to `deliver`, after held bytes or at once, with the capture of channel 15. -/
theorem dataBytesAreAcknowledgedThenDelivered : Obligations.DataBytesAreAcknowledgedThenDelivered := by
  intro s rx eoi k rest hseq hatn hcur
  have delivered : step s = deliver k rx eoi { s with drv := { s.drv with data := true }, seq := rest } :=
    (step_rx hseq).trans (rxByte_data (s := { s with seq := rest }) hatn hcur)
  refine ⟨fun ⟨hn, hdev, hl, hsec⟩ => delivered.trans (deliver_after_held rx eoi hn hdev hl hsec), fun hfree => ?_⟩
  exact ⟨_, delivered.trans (deliver_free hfree), rfl, rfl, rfl, capturedCmd_other, capturedCmd_room, capturedCmd_full⟩

/-! ## Transmit (41_iec_core R540 to R548) -/

theorem transmitNow_standard {n : Nat} (hblock : s.flag k .jiffyBlock = false)
    (hjiffy : s.flag k .jiffyDetected = false) (hdolphin : s.flag k .dolphinDetected = false) :
    transmitNow k n s = iecTransmit k n s := by
  simp [transmitNow, hblock, hjiffy, hdolphin]

theorem txSend_byte {n : Nat} (hn : n ≠ 0) : txSend k n s = .next (s.call (.peek k) [.tx (.peeked k)]) := if_neg hn

theorem txReady_eoi {n : Nat} {verify : Bool} (h : n = 1 ∨ verify = true) : txReady k n verify s =
    .next (s.waitFor .data .low (if verify then 0 else s.cfg.tIecTxEoiLow) [.tx (.high k n)]) := if_pos h

theorem txReady_plain {n : Nat} {verify : Bool} (hn : n ≠ 1) (hverify : verify = false) :
    txReady k n verify s = txSend k n s := if_neg (not_or.2 ⟨hn, Bool.eq_false_iff.1 hverify⟩)

theorem txNext_bit {i : Nat} (hi : i < 7) : txNext k b i s = txBit k b (i + 1) s := if_pos hi

/-- Settles O51: each clause is the step of one statement of the transmit. -/
theorem standardTransmitSendsItsBitsAndEoi : Obligations.StandardTransmitSendsItsBitsAndEoi := by
  intro s k n i verify b rest
  refine ⟨?start, fun hseq => ⟨?eoi, ?plain, ?nothing⟩, fun hseq => step_tx hseq, fun hseq => ⟨?refused, ?byte⟩,
    fun hseq => step_tx hseq, ?nextBit, fun hseq => step_tx hseq, fun hseq => step_tx hseq, fun hseq => step_tx hseq,
    fun hseq => step_tx hseq⟩
  case start =>
    intro hseq hblock hjiffy hdolphin
    rw [← beq_eq_decide]
    exact (step_tick hseq).trans (transmitNow_standard (s := { s with seq := rest }) hblock hjiffy hdolphin)
  case eoi => exact fun h => (step_tx hseq).trans (txReady_eoi h)
  case plain =>
    intro hn hverify
    exact (step_tx hseq).trans ((txReady_plain (by omega) hverify).trans (txSend_byte (by omega)))
  case nothing =>
    rintro rfl hverify
    exact (step_tx hseq).trans (txReady_plain (by omega) hverify)
  case refused =>
    rintro rfl
    exact step_tx hseq
  case byte => exact fun hn => (step_tx hseq).trans (txSend_byte hn)
  case nextBit => exact fun hseq hi => (step_tx hseq).trans (txNext_bit hi)

end Sys2Proof.Machine

/-! # Proofs for 41_iec_core: what addressing and the channel-15 commands leave alone -/

namespace Sys2Proof.Machine

variable {s t : State} {i : Instr}

/-! ## A role action, and an acknowledge under ATN -/

/-- What these leave alone: both memories, the flags register, the addressing registers, the Epyx state, the
configuration and the registry, the outside, the working values, the drivers but CLK and DATA, and of the table all but
`JiffyBlock`. -/
structure RoleFrame (s t : State) : Prop where
  buf : t.buf = s.buf
  cmdBuf : t.cmd.buf = s.cmd.buf
  fixed : SameFixed s t
  fl : t.fl = s.fl
  addr : t.addr = s.addr
  epyx : t.epyx = s.epyx
  env : t.env = s.env
  work : t.work = s.work
  drv : t.drv = { s.drv with clk := t.drv.clk, data := t.drv.data }
  lastTxTime : t.talk.lastTxTime = s.talk.lastTxTime
  preDev : t.dol.preDev = s.dol.preDev
  preEoi : t.dol.preEoi = s.dol.preEoi
  reqTime : t.dol.reqTime = s.dol.reqTime
  table : tableOf t = tableOf s
  flags : ∀ (k : Nat) (f : ProtoFlag), f ≠ .jiffyBlock → t.flag k f = s.flag k f

/-- Only what no field of `RoleFrame` speaks of has changed, and the table. -/
def OnlyRoles (s t : State) : Prop :=
  t = { s with
    seq := t.seq
    bus := t.bus
    sel := t.sel
    dev := t.dev
    drv := { s.drv with clk := t.drv.clk, data := t.drv.data }
    cmd := { t.cmd with buf := s.cmd.buf }
    talk := { s.talk with txFirst := t.talk.txFirst }
    dol := { s.dol with preArm := t.dol.preArm, preN := t.dol.preN, capN := t.dol.capN } }

theorem roleFrame_of_table (h : OnlyRoles s t) (htable : tableOf t = tableOf s)
    (hflags : ∀ (k : Nat) (f : ProtoFlag), f ≠ .jiffyBlock → t.flag k f = s.flag k f) : RoleFrame s t := by
  have frame : RoleFrame { s with dev := t.dev } t := by
    rw [h]
    exact ⟨rfl, rfl, ⟨rfl, rfl, rfl, rfl⟩, rfl, rfl, rfl, rfl, rfl, rfl, rfl, rfl, rfl, rfl, rfl, fun _ _ _ => rfl⟩
  exact { frame with table := htable, flags := hflags }

theorem roleFrame_of_eq (h : OnlyRoles s t) (hdev : t.dev = s.dev) : RoleFrame s t := by
  have hcfg : t.cfg = s.cfg := by rw [h]
  exact roleFrame_of_table h (by rw [tableOf, hdev, tableOf]) fun k f _ => by rw [State.flag, hdev, hcfg, State.flag]

theorem roleFrame_dolFlush (ps : List Pos) (s : State) : NextHas (RoleFrame s) (dolFlush ps s) := by
  unfold dolFlush
  split
  · trivial
  · exact roleFrame_of_eq rfl rfl

theorem roleFrame_flushBeforeCall (k : Nat) (isListen : Bool) (sec : Byte) (p : Pos) {f : State → Res}
    (hf : NextHas (RoleFrame s) (f s)) : NextHas (RoleFrame s) (flushBeforeCall k isListen sec p f s) := by
  unfold flushBeforeCall flushThen
  split
  · exact hf
  · split
    · exact hf
    · exact roleFrame_dolFlush _ s

theorem roleFrame_listenFree (k : Nat) (sec : Byte) (s : State) : NextHas (RoleFrame s) (listenFree k sec s) := by
  unfold listenFree
  split <;> exact roleFrame_of_eq rfl rfl

theorem roleFrame_doListen (k : Nat) (sec : Byte) (s : State) : NextHas (RoleFrame s) (doListen k sec s) := by
  refine roleFrame_flushBeforeCall k true sec _ ?_
  unfold listenFlushed
  split
  · split
    · exact roleFrame_listenFree k sec s
    · exact roleFrame_of_eq rfl rfl
  · exact roleFrame_listenFree k sec s

/-- Block mode sets `JiffyBlock` of one device, and no other flag of any. -/
theorem roleFrame_talkFree (k : Nat) (sec : Byte) (s : State) : NextHas (RoleFrame s) (talkFree k sec s) := by
  rw [talkFree_eq]
  cases blockEntry k sec s
  · exact roleFrame_of_eq rfl rfl
  · refine roleFrame_of_table rfl (tableOf_setFlag s k .jiffyBlock) fun j f hf => ?_
    exact (State.flag_setFlag s k j .jiffyBlock f).trans (if_neg fun h => hf h.2.1)

theorem roleFrame_doTalk (k : Nat) (sec : Byte) (s : State) : NextHas (RoleFrame s) (doTalk k sec s) := by
  refine roleFrame_flushBeforeCall k false sec _ ?_
  unfold talkFlushed
  split
  · split
    · exact roleFrame_talkFree k sec s
    · exact roleFrame_of_eq rfl rfl
  · exact roleFrame_talkFree k sec s

theorem roleFrame_doUnlisten (s : State) : NextHas (RoleFrame s) (doUnlisten s) := by
  unfold doUnlisten
  split
  · exact roleFrame_of_eq rfl rfl
  · split <;> exact roleFrame_of_eq rfl rfl

theorem roleFrame_doUntalk (s : State) : NextHas (RoleFrame s) (doUntalk s) := by
  unfold doUntalk
  split <;> exact roleFrame_of_eq rfl rfl

theorem roleFrame_goIdle (s : State) : RoleFrame s (goIdle s) := roleFrame_of_eq rfl rfl

theorem roleFrame_riseRole (sec : Byte) (s : State) : NextHas (RoleFrame s) (riseRole sec s) := by
  unfold riseRole
  split
  · exact roleFrame_doListen _ sec s
  · exact roleFrame_doTalk _ sec s
  · exact roleFrame_doUnlisten s
  · exact roleFrame_doUntalk s
  all_goals exact roleFrame_goIdle s

theorem roleFrame_rxAck (rx : Byte) (eoi newSec : Bool) (hatn : s.fl.atnActive = true) :
    NextHas (RoleFrame s) (rxAck rx eoi newSec s) := by
  unfold rxAck probeIfArmed
  dsimp only
  split
  · next h => simp [hatn] at h
  · split
    · split
      · split <;> exact roleFrame_of_eq rfl rfl
      · exact roleFrame_of_eq rfl rfl
    · exact roleFrame_of_eq rfl rfl

theorem roleFrame_captureAddress (rx : Byte) (a : BitVec 5) (s : State) :
    NextHas (RoleFrame (setPrimary rx s)) (captureAddress rx a s) := by
  unfold captureAddress
  dsimp only
  split <;> exact roleFrame_of_eq rfl rfl

theorem roleFrame_captureSecondary (rx : Byte) (hatn : s.fl.atnActive = true) :
    NextHas (RoleFrame (setSecondary rx s)) (captureSecondary rx s) := by
  unfold captureSecondary
  dsimp only
  split
  · exact roleFrame_of_eq rfl rfl
  · split
    · exact roleFrame_of_eq rfl rfl
    · exact roleFrame_rxAck (s := setSecondary rx s) rx false true hatn

/-! ## Every primary and every secondary -/

/-- Past the decode point, all but the captured primary is as after a role action. -/
def PrimaryFrame (s t : State) : Prop := ∃ p, RoleFrame (setPrimary p s.pop) t

/-- Past the decode point, all but the captured secondary is as after a role action. -/
def SecondaryFrame (s t : State) : Prop := RoleFrame s.pop t ∨ ∃ b, RoleFrame (setSecondary b s.pop) t

theorem nextHas_imp {P Q : State → Prop} {r : Res} (himp : ∀ t, P t → Q t) (h : NextHas P r) : NextHas Q r := by
  cases r with
  | next t => exact himp t h
  | fault e => trivial
  | refused e => trivial

/-- The two meanings of a primary or a secondary. -/
theorem nextHas_underAtn_or_rise {P : State → Prop} {r r' : Res} (hatn : s.fl.atnActive = true → NextHas P r)
    (hrise : NextHas P r') : NextHas P (if s.fl.atnActive then r else r') := by
  split
  · next atn => exact hatn atn
  · exact hrise

/-- A role action keeps the captured primary. -/
theorem primaryFrame_of_role {r : Res} (h : NextHas (RoleFrame s.pop) r) : NextHas (PrimaryFrame s) r :=
  nextHas_imp (fun _ ht => ⟨s.addr.primary, ht⟩) h

theorem primaryFrame_of_recorded {r : Res} (p : Byte) (h : NextHas (RoleFrame (setPrimary p s.pop)) r) :
    NextHas (PrimaryFrame s) r :=
  nextHas_imp (fun _ ht => ⟨p, ht⟩) h

theorem primaryFrame_reserved (rx : Byte) (s : State) :
    NextHas (PrimaryFrame s) (if s.fl.atnActive then .next (setPrimary rx s.pop) else notForUs s.pop) :=
  nextHas_underAtn_or_rise (fun _ => ⟨rx, roleFrame_of_eq rfl rfl⟩) (primaryFrame_of_role (roleFrame_goIdle s.pop))

theorem primaryFrame_exec (hf : formatOf i = .pri) (s : State) : NextHas (PrimaryFrame s) (exec i s) := by
  cases i with
  | nullPrimary =>
    exact nextHas_underAtn_or_rise (fun atn => primaryFrame_of_role (roleFrame_rxAck (s := s.pop) _ _ _ atn))
      (primaryFrame_of_role (roleFrame_goIdle s.pop))
  | unlisten =>
    exact nextHas_underAtn_or_rise
      (fun atn => primaryFrame_of_recorded _ (roleFrame_rxAck (s := setPrimary 0x3F s.pop) _ _ _ atn))
      (primaryFrame_of_role (roleFrame_doUnlisten s.pop))
  | untalk =>
    exact nextHas_underAtn_or_rise
      (fun atn => primaryFrame_of_recorded _ (roleFrame_rxAck (s := setPrimary 0x5F s.pop) _ _ _ atn))
      (primaryFrame_of_role (roleFrame_doUntalk s.pop))
  | listen addr =>
    refine nextHas_underAtn_or_rise (fun _ => primaryFrame_of_recorded _ (roleFrame_captureAddress _ addr s.pop)) ?_
    split
    · exact primaryFrame_of_role (roleFrame_doListen _ _ s.pop)
    · exact primaryFrame_of_role (roleFrame_goIdle s.pop)
  | talk addr =>
    refine nextHas_underAtn_or_rise (fun _ => primaryFrame_of_recorded _ (roleFrame_captureAddress _ addr s.pop)) ?_
    split
    · exact primaryFrame_of_role (roleFrame_doTalk _ _ s.pop)
    · exact primaryFrame_of_role (roleFrame_goIdle s.pop)
  | reservedPrimaryLow low => exact primaryFrame_reserved _ s
  | reservedPrimary60 low => exact primaryFrame_reserved _ s
  | reservedPrimary80 low => exact primaryFrame_reserved _ s
  | _ => cases hf

theorem secondaryFrame_captured (rx : Byte) (hatn : s.fl.atnActive = true) :
    NextHas (SecondaryFrame s) (captureSecondary rx s.pop) :=
  nextHas_imp (fun _ ht => .inr ⟨rx, ht⟩) (roleFrame_captureSecondary (s := s.pop) rx hatn)

theorem secondaryFrame_riseRole (sec : Byte) (s : State) : NextHas (SecondaryFrame s) (riseRole sec s.pop) :=
  nextHas_imp (fun _ => .inl) (roleFrame_riseRole sec s.pop)

theorem secondaryFrame_either (rx : Byte) (s : State) :
    NextHas (SecondaryFrame s) (if s.fl.atnActive then captureSecondary rx s.pop else riseRole rx s.pop) :=
  nextHas_underAtn_or_rise (secondaryFrame_captured rx) (secondaryFrame_riseRole rx s)

theorem secondaryFrame_exec (hf : formatOf i = .sec) (s : State) : NextHas (SecondaryFrame s) (exec i s) := by
  cases i with
  | close15Ignored =>
    refine nextHas_underAtn_or_rise (secondaryFrame_captured 0xEF) ?_
    split
    · exact .inl (roleFrame_goIdle s.pop)
    · exact secondaryFrame_riseRole 0xEF s
  | dataCh | closeCh | openCh | reservedSecondary03 | reservedSecondary45 | reservedSecondary7 | reservedSecondary8B
    | reservedSecondaryCD => exact secondaryFrame_either _ s
  | _ => cases hf

/-- What the two frames have in common: all but the addressing registers. -/
theorem roleFrame_of_addressing (hf : formatOf i = .pri ∨ formatOf i = .sec) (h : exec i s = .next t) :
    ∃ r : AddrRegs, RoleFrame { s.pop with addr := r } t ∧
      (formatOf i = .pri → r.secondary = s.addr.secondary ∧ r.secValid = s.addr.secValid) ∧
      (formatOf i = .sec → r.primary = s.addr.primary) := by
  obtain hf | hf := hf
  · have frame := primaryFrame_exec hf s
    rw [h] at frame
    obtain ⟨p, frame⟩ := frame
    exact ⟨{ s.addr with primary := p }, frame, fun _ => ⟨rfl, rfl⟩, fun hsec => by simp [hf] at hsec⟩
  · have frame := secondaryFrame_exec hf s
    rw [h] at frame
    obtain frame | ⟨b, frame⟩ := frame
    · exact ⟨s.addr, frame, fun _ => ⟨rfl, rfl⟩, fun _ => rfl⟩
    · exact ⟨{ s.addr with secondary := b, secValid := true }, frame, fun hpri => by simp [hf] at hpri, fun _ => rfl⟩

/-- Settles O35: a role action or an acknowledge (`RoleFrame`), after the capture of one byte under ATN. -/
theorem addressingLeavesTheRestAlone : Obligations.AddressingLeavesTheRestAlone := by
  intro s t i hf h
  obtain ⟨r, frame, keepsSecondary, keepsPrimary⟩ := roleFrame_of_addressing hf h
  have haddr : t.addr = r := frame.addr
  refine ⟨fun a => ⟨by rw [frame.buf]; rfl, by rw [frame.cmdBuf]; rfl⟩, frame.fixed, frame.fl, frame.epyx, frame.env,
    frame.work, frame.drv, frame.lastTxTime, frame.preDev, frame.preEoi, frame.reqTime, frame.table, frame.flags, ?_⟩
  rw [haddr]
  exact ⟨keepsSecondary, keepsPrimary⟩

/-! ## The channel-15 commands (41_iec_core R525, 43_dolphindos R708, R709, 44_epyx R802, R803) -/

variable {k : Nat} {rest : List Pos}

/-- The flags that a channel-15 command can write. -/
def ProtoFlag.ofCommand (f : ProtoFlag) : Prop :=
  f = .dolphinBurstEnabled ∨ f = .dolphinBurstTx ∨ f = .dolphinBurstRx ∨ f = .epyxHeader

/-- What a channel-15 command to device `k` leaves alone, past its decode point. -/
structure CommandFrame (k : Nat) (s t : State) : Prop where
  only : t = { s with dev := t.dev, dol := t.dol, epyx := t.epyx }
  table : tableOf t = tableOf s
  capN : t.dol.capN = s.dol.capN
  preDev : t.dol.preDev = s.dol.preDev
  preEoi : t.dol.preEoi = s.dol.preEoi
  sum : t.epyx.sum = s.epyx.sum
  flags : ∀ (j : Nat) (f : ProtoFlag), j ≠ k ∨ ¬ f.ofCommand → t.flag j f = s.flag j f

theorem commandFrame_refl (k : Nat) (s : State) : CommandFrame k s s :=
  ⟨rfl, rfl, rfl, rfl, rfl, rfl, fun _ _ _ => rfl⟩

theorem CommandFrame.setFlag {f : ProtoFlag} (h : CommandFrame k s t) (hf : f.ofCommand) :
    CommandFrame k s (t.setFlag k f) where
  only := by rw [h.only]; rfl
  table := (tableOf_setFlag t k f).trans h.table
  capN := h.capN
  preDev := h.preDev
  preEoi := h.preEoi
  sum := h.sum
  flags j g hg := by
    have unwritten : ¬ (j = k ∧ g = f ∧ j < t.dev.length) := fun ⟨hj, hgf, _⟩ => hg.elim (· hj) (· (hgf ▸ hf))
    rw [State.flag_setFlag, if_neg unwritten, h.flags j g hg]

theorem CommandFrame.clearFlag {f : ProtoFlag} (h : CommandFrame k s t) (hf : f.ofCommand) :
    CommandFrame k s (t.clearFlag k f) where
  only := by rw [h.only]; rfl
  table := (tableOf_clearFlag t k f).trans h.table
  capN := h.capN
  preDev := h.preDev
  preEoi := h.preEoi
  sum := h.sum
  flags j g hg := by
    have unwritten : ¬ (j = k ∧ g = f) := fun ⟨hj, hgf⟩ => hg.elim (· hj) (· (hgf ▸ hf))
    rw [State.flag_clearFlag, if_neg unwritten, h.flags j g hg]

/-- A new request, without the capture. -/
theorem CommandFrame.setDol (h : CommandFrame k s t) (preArm : Bool) (preN : Nat) (time : Micros) :
    CommandFrame k s { t with dol := { t.dol with preArm := preArm, preN := preN, reqTime := time } } where
  only := by rw [h.only]
  table := h.table
  capN := h.capN
  preDev := h.preDev
  preEoi := h.preEoi
  sum := h.sum
  flags := h.flags

/-- A new count, without the routine sum. -/
theorem CommandFrame.setEpyx (h : CommandFrame k s t) (ctr : Fin 3) (ver : Option EpyxVer) (dev : Nat) :
    CommandFrame k s { t with epyx := { t.epyx with ctr := ctr, ver := ver, dev := dev } } where
  only := by rw [h.only]
  table := h.table
  capN := h.capN
  preDev := h.preDev
  preEoi := h.preEoi
  sum := h.sum
  flags := h.flags

theorem CommandFrame.epyxReset (h : CommandFrame k s t) : CommandFrame k s (epyxReset t) :=
  holds_ite (h.setEpyx 0 none t.epyx.dev) h

theorem commandFrame_dolphinRequest (k : Nat) (dir : BurstDir) (s : State) :
    CommandFrame k s (dolphinRequest k dir s) := by
  have frame := commandFrame_refl k s
  unfold dolphinRequest
  split
  · cases dir with
    | tx => exact (frame.setFlag (.inr (.inl rfl))).setDol _ _ _
    | rx => exact (frame.setFlag (.inr (.inr (.inl rfl)))).setDol _ _ _
  · exact frame

theorem commandFrame_burstEnable (k : Nat) (on : Bool) (s : State) : CommandFrame k s (burstEnable k on s) := by
  have frame := commandFrame_refl k s
  exact holds_ite (holds_ite (frame.setFlag (.inl rfl)) (frame.clearFlag (.inl rfl))) frame

theorem commandFrame_epyxMw (k : Nat) (addr : BitVec 16) (len : Byte) (payload : List Byte) (s : State) :
    CommandFrame k s (epyxMw k addr len payload s) := by
  have frame := commandFrame_refl k s
  unfold epyxMw
  split
  · exact frame.epyxReset
  · split
    · exact frame.epyxReset
    · dsimp only
      split
      · exact frame.setEpyx 2 s.epyx.ver s.epyx.dev
      · split
        · exact frame.setEpyx 1 _ k
        · exact frame.epyxReset

theorem commandFrame_epyxMe (k : Nat) (addr : BitVec 16) (s : State) : CommandFrame k s (epyxMe k addr s) := by
  have frame := commandFrame_refl k s
  exact holds_ite (frame.setFlag (.inr (.inr (.inr rfl)))).epyxReset frame.epyxReset

theorem nextHas_atSite_cmd15 {P : State → Prop} (g : Nat → State → State) (hseq : s.seq = .decode (.cmd15 k) :: rest)
    (h : P (g k { s with seq := rest })) : NextHas P (atSite s fun k t => .next (g k t)) := by
  simpa only [NextHas, atSite, siteDevice, hseq, State.pop, List.tail_cons] using h

/-- All that a channel-15 command can do. -/
theorem commandFrame_exec (hf : formatOf i = .cmd15) (hseq : s.seq = .decode (.cmd15 k) :: rest) :
    NextHas (CommandFrame k { s with seq := rest }) (exec i s) := by
  cases i with
  | xq =>
    exact nextHas_atSite_cmd15 (fun k t => epyxReset (dolphinRequest k .tx t)) hseq
      (commandFrame_dolphinRequest k .tx _).epyxReset
  | xz =>
    exact nextHas_atSite_cmd15 (fun k t => epyxReset (dolphinRequest k .rx t)) hseq
      (commandFrame_dolphinRequest k .rx _).epyxReset
  | xfPlus =>
    exact nextHas_atSite_cmd15 (fun k t => epyxReset (burstEnable k true t)) hseq
      (commandFrame_burstEnable k true _).epyxReset
  | xfMinus =>
    exact nextHas_atSite_cmd15 (fun k t => epyxReset (burstEnable k false t)) hseq
      (commandFrame_burstEnable k false _).epyxReset
  | memWrite addr len payload =>
    exact nextHas_atSite_cmd15 (fun k t => epyxMw k addr len payload t) hseq
      (commandFrame_epyxMw k addr len payload _)
  | memExecute addr =>
    exact nextHas_atSite_cmd15 (fun k t => epyxMe k addr t) hseq (commandFrame_epyxMe k addr _)
  | _ => cases hf

/-- Settles O40: the commands write through `setFlag`, `clearFlag` and the two groups of registers alone. -/
theorem channelCommandsLeaveTheRestAlone : Obligations.ChannelCommandsLeaveTheRestAlone := by
  intro s t i k rest hf hseq hexec
  have frame := commandFrame_exec hf hseq
  rw [hexec] at frame
  obtain ⟨only, table, capN, preDev, preEoi, sum, flags⟩ := frame
  refine ⟨only, fun a => ?memory, table, capN, preDev, preEoi, sum, fun j f hf => flags j f (hf.imp_right ?other)⟩
  case memory =>
    rw [only]
    exact ⟨rfl, rfl⟩
  case other => simp only [ProtoFlag.ofCommand, not_or, imp_self]

theorem epyxReset_eq (s : State) : epyxReset s =
    { s with epyx := if s.cfg.featEpyx then { s.epyx with ctr := 0, ver := none } else s.epyx } := by
  unfold epyxReset
  split <;> rfl

theorem fetch_cmd15_noCommand (h : s.cmd.overflow = true ∨
      ∃ bytes, cmdBytes s = .ok bytes ∧ ∀ i, decode .cmd15 bytes ≠ .ok i) : fetch (.cmd15 k) s = .noCommand := by
  obtain hover | ⟨bytes, hbytes, hno⟩ := h
  · exact if_pos hover
  · have undecoded : ∃ e, decodeCmd15 bytes = .error e := by
      cases hdecode : decodeCmd15 bytes with
      | ok i => exact absurd hdecode (hno i)
      | error e => exact ⟨e, rfl⟩
    obtain ⟨e, hdecode⟩ := undecoded
    simp only [fetch, hbytes, hdecode, ite_self]

/-- Settles O5: at the decode point there is no command, and the step is `epyxReset` past it. -/
theorem otherStringsOnlyResetTheEpyxCount : Obligations.OtherStringsOnlyResetTheEpyxCount := by
  intro s k rest hseq h
  simp only [step, hseq, fetch_cmd15_noCommand h, epyxReset_eq, State.pop, List.tail_cons]

end Sys2Proof.Machine

/-! # Proofs for 42_jiffydos: the lookup, the received pairs, and the end of a zero-length block -/

namespace Sys2Proof.Machine

variable {s : State} {rest : List Pos} {rx : Byte}

theorem step_jiffy {p : JiffyPos} (hseq : s.seq = .jiffy p :: rest) : step s = runJiffy p { s with seq := rest } := by
  simp only [step, advance, hseq, runPos]

/-! ## The lookup (42_jiffydos R602) -/

/-- A search of the table finds the least index whose entry passes the test. -/
theorem findIdx?_eq_some_iff_entryAt {dev : List Entry} {p : Entry → Bool} {k : Nat} : dev.findIdx? p = some k ↔
    k < dev.length ∧ p (entryAt dev k) = true ∧ ∀ j < k, ¬ p (entryAt dev j) = true := by
  rw [List.findIdx?_eq_some_iff_getElem, ← exists_prop]
  refine exists_congr fun hk => ?_
  rw [entryAt_eq_getElem hk]
  refine and_congr_right fun _ => forall₂_congr fun j hj => ?_
  rw [entryAt_eq_getElem (hj.trans hk)]

/-- The default lookup: the search comes first, and `JiffyEnabled` is tested on its result alone. -/
theorem jiffyLookup_lowNibble_eq_some_iff {j : Nat} (hmode : s.cfg.jiffyLookup = .lowNibble) :
    jiffyLookup s rx = some j ↔
      s.dev.findIdx? (fun e => e.valid && e.address.extractLsb' 0 4 == rx.extractLsb' 0 4) = some j ∧
        s.flag j .jiffyEnabled = true := by
  simp only [jiffyLookup, hmode]
  cases s.dev.findIdx? (fun e => e.valid && e.address.extractLsb' 0 4 == rx.extractLsb' 0 4) with
  | none => simp
  | some i =>
    simp only [Option.ite_none_right_eq_some, Option.some.injEq]
    exact and_comm.trans (and_congr_right fun heq => by rw [heq])

/-- Settles O52: the search of the table finds the least match, and the flag of that entry decides. -/
theorem jiffyLookupTakesTheFirstSharedNibble : Obligations.JiffyLookupTakesTheFirstSharedNibble := by
  intro s rx j hmode
  rw [jiffyLookup_lowNibble_eq_some_iff hmode, findIdx?_eq_some_iff_entryAt]
  simp only [Bool.and_eq_true, beq_iff_eq, and_assoc]
  rw [and_comm (b := s.flag j .jiffyEnabled = true)]

/-! ## Byte receive (42_jiffydos R604) -/

/-- A bit takes the OR of its value and the sample put in its place, whether or not it was clear (30_encoding R320). -/
theorem getLsbD_putBit_or {b : Byte} {i j : Nat} (bit : Bool) (hj : j < 8) :
    (putBit b i bit).getLsbD j = (b.getLsbD j || (j == i && bit)) := by
  cases bit with
  | false => rw [putBit, if_neg Bool.false_ne_true, Bool.and_false, Bool.or_false]
  | true =>
    rw [putBit, if_pos rfl, BitVec.getLsbD_or, BitVec.getLsbD_twoPow]
    by_cases h : j = i
    · simp [← h, hj]
    · simp [h, Ne.symm h]

/-- Slot `i` adds its two samples at the bits of its pair, and nothing at any other bit. -/
theorem getLsbD_samplePair {i j : Nat} (hj : j < 8) : (samplePair s i rx).getLsbD j =
    (rx.getLsbD j || (j == (slotOf jiffyPairs i).1 && readSource s (slotOf s.cfg.jiffyRxMap i).first) ||
      (j == (slotOf jiffyPairs i).2 && readSource s (slotOf s.cfg.jiffyRxMap i).second)) := by
  rw [samplePair, getLsbD_putBit_or _ hj, getLsbD_putBit_or _ hj]

/-- Settles O53: a bit of the byte is the OR of what the four slots add, and one slot's pair has that bit. -/
theorem jiffyPairsFillTheirBits : Obligations.JiffyPairsFillTheirBits := by
  rintro s0 s1 s2 s3 b rfl
  refine ⟨?_, ?_, ?_, ?_, ?_, ?_, ?_, ?_⟩
  all_goals
    iterate 4 rw [getLsbD_samplePair (by decide)]
    simp [slotOf, jiffyPairs]

/-! ## The end of a zero-length block (42_jiffydos R610) -/

/-- With nothing latched, or inside a tick, `unmask_irq()` clears the mask and the latch and runs nothing
(45_scheduler R912). -/
theorem unmaskIrq_runsNothing (h : s.fl.irqPending = false ∨ s.fl.inTick = true) :
    unmaskIrq s = { s with fl := { s.fl with irqMasked := false, irqPending := false } } := by
  obtain hidle | htick := h
  · exact (unmaskIrq_idle hidle).trans
      (congrArg (fun p => { s with fl := { s.fl with irqMasked := false, irqPending := p } }) hidle)
  · exact unmaskIrq_inTick htick

theorem jiffyEoiEnd_eq (h : s.fl.irqPending = false ∨ s.fl.inTick = true) : jiffyEoiEnd s = .next { s with
    drv := { s.drv with clk := true }
    fl := { s.fl with irqMasked := false, irqPending := false }
    bus := { s.bus with done := true }
    talk := ⟨false, s.env.micros⟩ } := by
  rw [jiffyEoiEnd, unmaskIrq_runsNothing (s := setClk true s) h]
  rfl

/-- Settles O54: the end of the hold is `jiffyEoiEnd` past its statement. -/
theorem zeroLengthBlockEndsTheTalk : Obligations.ZeroLengthBlockEndsTheTalk :=
  fun s rest hseq h => (step_jiffy hseq).trans (jiffyEoiEnd_eq (s := { s with seq := rest }) h)

end Sys2Proof.Machine

/-! # Proofs for 43_dolphindos: the burst commands, held bytes, pending bursts and the acknowledge -/

namespace Sys2Proof.Machine

variable {s : State} {k : Nat} {rest : List Pos}

theorem step_dol {p : DolPos} (hseq : s.seq = .dol p :: rest) : step s = runDol p { s with seq := rest } := by
  simp only [step, advance, hseq, runPos]

theorem step_epyx {p : EpyxPos} (hseq : s.seq = .epyx p :: rest) : step s = runEpyx p { s with seq := rest } := by
  simp only [step, advance, hseq, runPos]

/-! ## The burst commands (43_dolphindos R708 to R710) -/

theorem atSite_cmd15 (f : Nat → State → Res) (hseq : s.seq = .decode (.cmd15 k) :: rest) :
    atSite s f = f k { s with seq := rest } := by
  simp only [atSite, siteDevice, hseq, State.pop, List.tail_cons]

theorem exec_xq (hseq : s.seq = .decode (.cmd15 k) :: rest) :
    exec .xq s = .next (epyxReset (dolphinRequest k .tx { s with seq := rest })) :=
  atSite_cmd15 (fun k t => .next (epyxReset (dolphinRequest k .tx t))) hseq

theorem exec_xz (hseq : s.seq = .decode (.cmd15 k) :: rest) :
    exec .xz s = .next (epyxReset (dolphinRequest k .rx { s with seq := rest })) :=
  atSite_cmd15 (fun k t => .next (epyxReset (dolphinRequest k .rx t))) hseq

theorem exec_xfPlus (hseq : s.seq = .decode (.cmd15 k) :: rest) :
    exec .xfPlus s = .next (epyxReset (burstEnable k true { s with seq := rest })) :=
  atSite_cmd15 (fun k t => .next (epyxReset (burstEnable k true t))) hseq

theorem exec_xfMinus (hseq : s.seq = .decode (.cmd15 k) :: rest) :
    exec .xfMinus s = .next (epyxReset (burstEnable k false { s with seq := rest })) :=
  atSite_cmd15 (fun k t => .next (epyxReset (burstEnable k false t))) hseq

theorem dolphinRequest_tx (hon : dolphinOn s k = true) (henabled : s.flag k .dolphinBurstEnabled = true) :
    dolphinRequest k .tx s = { s with
      dev := (s.setFlag k .dolphinBurstTx).dev
      dol := { s.dol with reqTime := s.env.micros } } :=
  if_pos (Bool.and_eq_true_iff.2 ⟨hon, henabled⟩)

theorem dolphinRequest_rx (hon : dolphinOn s k = true) (henabled : s.flag k .dolphinBurstEnabled = true) :
    dolphinRequest k .rx s = { s with
      dev := (s.setFlag k .dolphinBurstRx).dev
      dol := { s.dol with preN := 0, preArm := false, reqTime := s.env.micros } } :=
  if_pos (Bool.and_eq_true_iff.2 ⟨hon, henabled⟩)

theorem dolphinRequest_off (dir : BurstDir)
    (hoff : ¬ (dolphinOn s k = true ∧ s.flag k .dolphinBurstEnabled = true)) : dolphinRequest k dir s = s :=
  if_neg (mt Bool.and_eq_true_iff.1 hoff)

/-- Settles O36: at the decode point the two commands are `dolphinRequest` and then `epyxReset`. -/
theorem burstRequestsNeedTheEnabledBurst : Obligations.BurstRequestsNeedTheEnabledBurst := by
  rintro s k rest e hseq rfl
  rw [exec_xq hseq, exec_xz hseq]
  refine ⟨fun ⟨hon, henabled⟩ => ?enabled, fun hoff => ?fallback⟩
  case enabled =>
    rw [dolphinRequest_tx (s := { s with seq := rest }) hon henabled,
      dolphinRequest_rx (s := { s with seq := rest }) hon henabled, epyxReset_eq, epyxReset_eq]
    exact ⟨rfl, rfl⟩
  case fallback =>
    rw [dolphinRequest_off (s := { s with seq := rest }) .tx hoff,
      dolphinRequest_off (s := { s with seq := rest }) .rx hoff, epyxReset_eq]
    exact ⟨rfl, rfl⟩

theorem flag_epyxReset (s : State) (j : Nat) (f : ProtoFlag) : (epyxReset s).flag j f = s.flag j f := by
  simp only [State.flag, epyxReset_dev, epyxReset_cfg]

/-- Where DolphinDOS acts, its burst bit exists (10_state R131). -/
theorem wiredMask_dolphinBurstEnabled (hon : dolphinOn s k = true) :
    (wiredMask s.cfg).getLsbD ProtoFlag.dolphinBurstEnabled.bit = true := by
  have wired : (s.cfg.featDolphin && s.cfg.hasParallel) = true := (Bool.and_eq_true_iff.1 hon).1
  simp [wiredMask, wired, ProtoFlag.bit]

/-- `XF+` and `XF-` set the bit of a device of the table. -/
theorem flag_burstEnable_same (hon : dolphinOn s k = true) (hk : k < s.dev.length) (on : Bool) :
    (burstEnable k on s).flag k .dolphinBurstEnabled = on := by
  rw [burstEnable, if_pos hon]
  cases on with
  | true => exact (State.flag_setFlag ..).trans ((if_pos ⟨rfl, rfl, hk⟩).trans (wiredMask_dolphinBurstEnabled hon))
  | false => exact (State.flag_clearFlag ..).trans (if_pos ⟨rfl, rfl⟩)

theorem flag_burstEnable_other {j : Nat} {f : ProtoFlag} (hother : j ≠ k ∨ f ≠ .dolphinBurstEnabled) (on : Bool)
    (s : State) : (burstEnable k on s).flag j f = s.flag j f := by
  have unwritten (h : j = k ∧ f = .dolphinBurstEnabled) : False := hother.elim (· h.1) (· h.2)
  rw [burstEnable]
  split
  · cases on with
    | true => exact (State.flag_setFlag ..).trans (if_neg fun ⟨hj, hf, _⟩ => unwritten ⟨hj, hf⟩)
    | false => exact (State.flag_clearFlag ..).trans (if_neg unwritten)
  · rfl

theorem burstEnable_only (k : Nat) (on : Bool) (s : State) :
    burstEnable k on s = { s with dev := (burstEnable k on s).dev } := by
  unfold burstEnable
  split
  · cases on <;> rfl
  · rfl

/-- An ATN fall keeps a persistent flag of an entry (10_state R132). -/
theorem Entry.has_dropTransient (c : Cfg) {f : ProtoFlag} (hf : persistentMask.getLsbD f.bit = true) (e : Entry) :
    e.dropTransient.has c f = e.has c f := by
  unfold Entry.dropTransient
  split
  · simp only [Entry.has, BitVec.getLsbD_and, hf, Bool.and_true]
  · rfl

theorem entryAt_map_dropTransient (dev : List Entry) (k : Nat) :
    entryAt (dev.map Entry.dropTransient) k = (entryAt dev k).dropTransient := by
  simp only [entryAt, List.getD_eq_getElem?_getD, List.getElem?_map]
  cases dev[k]? <;> rfl

theorem flag_atnFall {f : ProtoFlag} (hf : persistentMask.getLsbD f.bit = true) (s : State) (k : Nat) :
    (atnFall s).flag k f = s.flag k f := by
  simp only [atnFall_eq, State.flag, entryAt_map_dropTransient, Entry.has_dropTransient _ hf]

/-- Settles O37: the two commands are `burstEnable` and then `epyxReset`, and the bit it writes is persistent. -/
theorem burstEnableFollowsXfPlusAndXfMinus : Obligations.BurstEnableFollowsXfPlusAndXfMinus := by
  intro s k rest hseq hk hon
  have written (on : Bool) :
      (epyxReset (burstEnable k on { s with seq := rest })).flag k .dolphinBurstEnabled = on :=
    (flag_epyxReset _ _ _).trans (flag_burstEnable_same (s := { s with seq := rest }) hon hk on)
  have kept (on : Bool) (j : Nat) (f : ProtoFlag) (hother : j ≠ k ∨ f ≠ .dolphinBurstEnabled) :
      (epyxReset (burstEnable k on { s with seq := rest })).flag j f = s.flag j f :=
    (flag_epyxReset _ _ _).trans (flag_burstEnable_other hother on _)
  have only (on : Bool) (t : State) (ht : t = epyxReset (burstEnable k on { s with seq := rest })) :
      t = { s with seq := rest, dev := t.dev, epyx := t.epyx } := by
    rw [ht, epyxReset_eq, burstEnable_only]
  exact ⟨_, _, exec_xfPlus hseq, exec_xfMinus hseq, written true, written false,
    (flag_atnFall (by decide) _ k).trans (written true),
    fun j f hother => ⟨kept true j f hother, kept false j f hother⟩, only true _ rfl, only false _ rfl⟩

/-! ## Held bytes (43_dolphindos R705) -/

theorem memRead_of_memGet {size i : Nat} {m : Memory} {b : Byte} (hi : i < size) (hget : memGet m i = some b) :
    memRead size m i = .ok b := by
  simp only [memRead, if_pos hi, hget]

/-- A run of reads answers the bytes listed at its indices. -/
theorem memBytes_of_memGet {size i : Nat} {m : Memory} {bs : List Byte} (hsize : i + bs.length ≤ size)
    (hget : ∀ j < bs.length, memGet m (i + j) = bs[j]?) : memBytes size m i bs.length = .ok bs := by
  induction bs generalizing i with
  | nil => rfl
  | cons b bs ih =>
    rw [List.length_cons] at hsize hget
    have head : memRead size m i = .ok b := memRead_of_memGet (by omega) (hget 0 (by omega))
    have tail : memBytes size m (i + 1) bs.length = .ok bs := by
      refine ih (by omega) fun j hj => ?_
      rw [Nat.add_assoc, Nat.add_comm 1 j]
      exact hget (j + 1) (by omega)
    simp only [List.length_cons, memBytes, head, tail]

theorem heldWrites_concat (j : Nat) (eoi : Bool) (init : List Byte) (last : Byte) : heldWrites j eoi (init ++ [last]) =
    init.map (fun b => .yield (.call (.write j b false))) ++ [.yield (.call (.write j last eoi))] := by
  induction init with
  | nil => rfl
  | cons b init ih =>
    have more : heldWrites j eoi (b :: (init ++ [last])) =
        .yield (.call (.write j b false)) :: heldWrites j eoi (init ++ [last]) := by
      cases init <;> rfl
    rw [List.cons_append, more, ih, List.map_cons, List.cons_append]

theorem dolFlush_held {held : List Byte} (ps : List Pos) (h : memBytes s.cfg.bufSize s.buf 0 s.dol.preN = .ok held) :
    dolFlush ps s = .next { s with
      dol := { s.dol with preN := 0, preArm := false }
      seq := flushCalls s held ++ ps ++ s.seq } := by
  simp only [dolFlush, h]

section FlushCalls

variable (held : List Byte)

/-- The SAVE listen is still open. -/
theorem flushCalls_saveOpen (hl : s.sel.listener = some s.dol.preDev) (hsec : s.sel.listenerSec = 0x61) :
    flushCalls s held = heldWrites s.dol.preDev s.dol.preEoi held :=
  if_pos ⟨hl, hsec⟩

/-- The device does not listen. -/
theorem flushCalls_closed (hl : s.sel.listener ≠ some s.dol.preDev) : flushCalls s held =
    [.yield (.call (.listen s.dol.preDev 0x61))] ++ heldWrites s.dol.preDev s.dol.preEoi held ++
      [.yield (.call (.unlisten s.dol.preDev))] := by
  simp [flushCalls, hl]

/-- The device listens on another channel, and its listen is restored. -/
theorem flushCalls_otherChannel (hl : s.sel.listener = some s.dol.preDev) (hsec : s.sel.listenerSec ≠ 0x61) :
    flushCalls s held =
      [.yield (.call (.listen s.dol.preDev 0x61))] ++ heldWrites s.dol.preDev s.dol.preEoi held ++
        [.yield (.call (.unlisten s.dol.preDev)), .yield (.call (.listen s.dol.preDev s.sel.listenerSec))] := by
  have another : ¬ (s.sel.listener = some s.dol.preDev ∧ s.sel.listenerSec = 0x61) := fun h => hsec h.2
  simp only [flushCalls, if_neg another, if_pos hl, List.cons_append, List.nil_append]

end FlushCalls

/-- Before held bytes are flushed, nothing else of the routine runs. -/
theorem flushThen_held (resume : Pos) (next : State → Res) (hheld : s.dol.preN ≠ 0) :
    flushThen resume next s = dolFlush [resume] s :=
  if_neg hheld

/-! ### The claims of the buffer (42_jiffydos R612, 44_epyx R812, R816, R817) -/

theorem transmitNow_block {n : Nat} (hheld : s.dol.preN ≠ 0) (hblock : s.flag k .jiffyBlock = true) :
    transmitNow k n s = dolFlush [.jiffy (.claimed k n)] s :=
  (if_pos hblock).trans (flushThen_held _ _ hheld)

theorem stepEpyx_load (hheld : s.dol.preN ≠ 0) (hfeat : s.cfg.featEpyx = true) (hidle : s.bus.mode = .idle)
    (hleast : leastWith s [.epyxHeader, .epyxLoad, .epyxSectorOp] = some k) (hheader : s.flag k .epyxHeader = false)
    (hload : s.flag k .epyxLoad = true) : stepEpyx s = dolFlush [.epyx (.loadClaimed k)] s := by
  simp only [stepEpyx, hfeat, hidle, and_self, if_true, epyxPending, hleast, hheader, hload, Bool.false_eq_true,
    if_false]
  exact flushThen_held _ _ hheld

section Sector

variable {t sec c : Byte}

theorem sectorAct_read (hheld : s.dol.preN ≠ 0) (hop : sectorOp (sectorFormat s.cfg s.epyx.sum) t sec c = .read) :
    sectorAct k t sec c s = dolFlush [.epyx (.readClaimed k t sec)] s := by
  simp only [sectorAct, hop, flushThen_held _ _ hheld]

theorem sectorAct_write (hheld : s.dol.preN ≠ 0) (hop : sectorOp (sectorFormat s.cfg s.epyx.sum) t sec c = .write) :
    sectorAct k t sec c s = dolFlush [.epyx (.writeClaimed k t sec)] s := by
  simp only [sectorAct, hop, flushThen_held _ _ hheld]

theorem sectorCommand_absent (hno : (sectorFormat s.cfg s.epyx.sum).hasCommand = false) :
    sectorCommand k t s = sectorAct k t s.work.byte 0x00 s :=
  if_neg (Bool.eq_false_iff.1 hno)

end Sector

/-- Settles O56: the calls are `flushCalls` of the bytes that `memBytes` reads back, and a claim is `flushThen`. -/
theorem heldBytesAreFlushedInOrder : Obligations.HeldBytesAreFlushedInOrder := by
  constructor
  · rintro s init last ps writes hn hsize hbytes rfl
    have read : memBytes s.cfg.bufSize s.buf 0 s.dol.preN = .ok (init ++ [last]) := by
      rw [hn] at hsize hbytes ⊢
      exact memBytes_of_memGet (by omega) fun j hj => by rw [Nat.zero_add]; exact hbytes j hj
    rw [← heldWrites_concat]
    exact ⟨_, dolFlush_held ps read, fun ⟨hl, hsec⟩ => flushCalls_saveOpen _ hl hsec, flushCalls_closed _,
      flushCalls_otherChannel _⟩
  · intro s rest k n t sec hheld
    refine ⟨fun hseq hblock => ?block, fun hseq hfeat hidle hleast hheader hload => ?load,
      fun hseq => ⟨fun hop => ?read, fun hop => ?write⟩,
      fun hseq hno hsec => ⟨fun hop => ?readAtOnce, fun hop => ?writeAtOnce⟩⟩
    case block => exact (step_tick hseq).trans (transmitNow_block (s := { s with seq := rest }) hheld hblock)
    case load =>
      exact (step_tick hseq).trans
        (stepEpyx_load (s := { s with seq := .tick .s5 :: rest }) hheld hfeat hidle hleast hheader hload)
    case read => exact (step_epyx hseq).trans (sectorAct_read (s := { s with seq := rest }) hheld hop)
    case write => exact (step_epyx hseq).trans (sectorAct_write (s := { s with seq := rest }) hheld hop)
    all_goals
      subst hsec
      refine (step_epyx hseq).trans ((sectorCommand_absent (s := { s with seq := rest }) hno).trans ?_)
    case readAtOnce => exact sectorAct_read (s := { s with seq := rest }) hheld hop
    case writeAtOnce => exact sectorAct_write (s := { s with seq := rest }) hheld hop

/-! ## The acknowledge (43_dolphindos R706, R714) -/

theorem parOutMode_unwind (kind : ErrKind) (ps : List Pos) (h : s.drv.parOutMode = false) :
    (unwind kind ps s).drv.parOutMode = false := by
  have translated (u : State) : (onFail kind u).drv.parOutMode = u.drv.parOutMode := by cases kind <;> rfl
  fun_induction unwind kind ps s with
  | case9 => exact h
  | case10 r s ih => exact ih rfl
  | case11 p r s _ _ _ _ _ _ _ _ _ ih => exact ih h
  | _ => exact (translated _).trans h

/-- A failure inside a tick returns the parallel bus to input (60_exceptions R1001). -/
theorem failWith_freesTheParallelBus {kind : ErrKind} (haddr : kind ≠ .notAddressed) (hverify : kind ≠ .verifyError)
    (htick : s.fl.inTick = true) : ∃ t, failWith kind s = .next t ∧ t.drv.parOutMode = false := by
  obtain ⟨-, input, -⟩ := unguard_inTick htick
  exact ⟨_, failWith_next haddr hverify s, parOutMode_unwind kind _ input⟩

theorem dolTxAcked_reached (hwait : s.work.wait = .reached) :
    dolTxAcked s = .next { s with drv := { s.drv with parOutMode := false }, talk := ⟨false, s.env.micros⟩ } := by
  simp only [dolTxAcked, parInput_work, hwait]
  rfl

theorem dolTxAcked_freesTheParallelBus (htick : s.fl.inTick = true) :
    ∃ t, dolTxAcked s = .next t ∧ t.drv.parOutMode = false := by
  cases hwait : s.work.wait with
  | reached => exact ⟨_, dolTxAcked_reached hwait, rfl⟩
  | timeout =>
    simp only [dolTxAcked, parInput_work, hwait]
    exact failWith_freesTheParallelBus (by decide) (by decide) htick
  | atnAbort =>
    simp only [dolTxAcked, parInput_work, hwait]
    exact failWith_freesTheParallelBus (by decide) (by decide) htick

/-- Settles O57: the statement is `dolTxAcked`, by the result of its wait. -/
theorem dolphinAcknowledgeFreesTheParallelBus : Obligations.DolphinAcknowledgeFreesTheParallelBus := by
  intro s rest hseq htick
  rw [step_dol hseq]
  exact ⟨fun hwait => dolTxAcked_reached (s := { s with seq := rest }) hwait,
    dolTxAcked_freesTheParallelBus (s := { s with seq := rest }) htick⟩

/-! ## A pending burst (43_dolphindos R711 to R713) -/

/-- The direction of the burst pending for device `k`: a transmit goes first. -/
def pendingDir (k : Nat) (s : State) : BurstDir := if s.flag k .dolphinBurstTx then .tx else .rx

/-- The burst of device `k` has started: its flags are cleared, and the device is told. -/
def burstStarted (k : Nat) (dir : BurstDir) (s : State) : State :=
  let cleared := (s.clearFlag k .dolphinBurstTx).clearFlag k .dolphinBurstRx
  match dir with
  | .tx => cleared.call (.talk k 0x60) [.dol (.burstTalk k), .dol .releaseClk, .dol .returned]
  | .rx => cleared.call (.listen k 0x61) [.dol (.burstListen k), .dol .returned]

/-- The delay of the burst is over at the place of its band that the last answer drew (40_timing R412). -/
def burstDue (dir : BurstDir) (s : State) : Bool :=
  timeUp s.cfg s.work.answer (elapsed s s.dol.reqTime) (2 * burstDelay s.cfg dir)

section Pending

variable {dir : BurstDir}

theorem pendingDir_tx (hflag : s.flag k .dolphinBurstTx = true) : pendingDir k s = .tx := if_pos hflag

theorem pendingDir_rx (hflag : s.flag k .dolphinBurstTx = false) : pendingDir k s = .rx :=
  if_neg (Bool.eq_false_iff.1 hflag)

theorem burstDue_of_le (h : burstDelay s.cfg dir + s.cfg.tTol ≤ elapsed s s.dol.reqTime) : burstDue dir s = true :=
  timeUp_after_band (by omega) _

theorem burstDue_of_lt (h : elapsed s s.dol.reqTime + s.cfg.tTol < burstDelay s.cfg dir) : burstDue dir s = false :=
  timeUp_before_band (by omega) _

/-- The default direction test (43_dolphindos R711). -/
theorem dirOk_released (hmode : s.cfg.dolphinDirOk = .released) :
    dirOk s dir = true ↔ s.fl.atnActive = false ∧ s.drv.parOutMode = false := by
  simp [dirOk, hmode]

/-- A direction test with a fixed answer for each direction (00_scope R4). -/
theorem dirOk_pendingDir_fixed {tx rx : Bool} (hmode : s.cfg.dolphinDirOk = .fixed tx rx) :
    dirOk s (pendingDir k s) = if s.flag k .dolphinBurstTx then tx else rx := by
  cases hflag : s.flag k .dolphinBurstTx with
  | true => simp [pendingDir_tx hflag, dirOk, hmode]
  | false => simp [pendingDir_rx hflag, dirOk, hmode]

/-- All that `dolphin_pending()` does for the least device with a burst pending. -/
theorem dolphinPending_eq (hleast : leastWith s [.dolphinBurstTx, .dolphinBurstRx] = some k) :
    dolphinPending s = if burstDue (pendingDir k s) s = true ∧ dirOk s (pendingDir k s) = true then
      .next (burstStarted k (pendingDir k s) s) else .next s := by
  cases hflag : s.flag k .dolphinBurstTx with
  | true =>
    simp only [dolphinPending, hleast, pendingDir_tx hflag, hflag, if_true, burstDue]
    cases timeUp s.cfg s.work.answer (elapsed s s.dol.reqTime) (2 * burstDelay s.cfg .tx) <;>
      cases dirOk s .tx <;> rfl
  | false =>
    simp only [dolphinPending, hleast, pendingDir_rx hflag, hflag, Bool.false_eq_true, if_false, burstDue]
    cases timeUp s.cfg s.work.answer (elapsed s s.dol.reqTime) (2 * burstDelay s.cfg .rx) <;>
      cases dirOk s .rx <;> rfl

theorem stepDolphin_idle (hdolphin : s.cfg.featDolphin = true) (hpar : s.cfg.hasParallel = true)
    (hidle : s.bus.mode = .idle) : stepDolphin s = dolphinPending s :=
  if_pos ⟨hdolphin, hpar, hidle⟩

theorem step_s3_pending (hseq : s.seq = .tick .s3 :: rest) (hidle : s.bus.mode = .idle)
    (hdolphin : s.cfg.featDolphin = true) (hpar : s.cfg.hasParallel = true)
    (hleast : leastWith s [.dolphinBurstTx, .dolphinBurstRx] = some k) :
    step s = if burstDue (pendingDir k s) s = true ∧ dirOk s (pendingDir k s) = true then
      .next (burstStarted k (pendingDir k s) { s with seq := .tick .s4 :: rest })
      else .next { s with seq := .tick .s4 :: rest } :=
  (step_tick hseq).trans ((stepDolphin_idle (s := { s with seq := .tick .s4 :: rest }) hdolphin hpar hidle).trans
    (dolphinPending_eq (s := { s with seq := .tick .s4 :: rest }) hleast))

end Pending

/-- Settles O58: the burst starts exactly when it is due and its direction test holds (`step_s3_pending`), and its band
bounds when it is due. -/
theorem pendingBurstStartsAfterItsDelay : Obligations.PendingBurstStartsAfterItsDelay := by
  rintro s wait start k delay rest ok hseq hidle hdolphin hpar hok hleast rfl hstart
  have answer : dirOk s (pendingDir k s) = ok := by
    obtain ⟨hmode, hok⟩ | ⟨tx, rx, hmode, rfl⟩ := hok
    · exact Bool.eq_iff_iff.2 ((dirOk_released hmode).trans hok.symm)
    · exact dirOk_pendingDir_fixed hmode
  have started : delay = burstDelay s.cfg (pendingDir k s) ∧
      start = burstStarted k (pendingDir k s) { s with seq := .tick .s4 :: rest } := by
    obtain ⟨hflag, rfl, rfl⟩ | ⟨hflag, rfl, rfl⟩ := hstart
    · rw [pendingDir_tx hflag]
      exact ⟨rfl, rfl⟩
    · rw [pendingDir_rx hflag]
      exact ⟨rfl, rfl⟩
  obtain ⟨rfl, rfl⟩ := started
  rw [step_s3_pending hseq hidle hdolphin hpar hleast, answer]
  refine ⟨fun early => if_neg fun ⟨due, _⟩ => ?early, fun hno => if_neg fun ⟨_, hyes⟩ => ?wrongWay,
    fun hyes late => if_pos ⟨burstDue_of_le late, hyes⟩, ?either⟩
  case early => exact absurd (burstDue_of_lt early) (ne_false_of_eq_true due)
  case wrongWay => exact absurd hno (ne_false_of_eq_true hyes)
  case either => exact (ite_eq_or_eq _ _ _).symm

end Sys2Proof.Machine

/-! # Proofs for 44_epyx: the write counter, the header, and a received byte -/

namespace Sys2Proof.Machine

variable {s : State} {k : Nat} {rest : List Pos}

/-! ## The matched writes (44_epyx R800, R802, R804) -/

section Write

variable {addr : BitVec 16} {len : Byte} {d : List Byte}

theorem exec_memWrite (hseq : s.seq = .decode (.cmd15 k) :: rest) :
    exec (.memWrite addr len d) s = .next (epyxMw k addr len d { s with seq := rest }) :=
  atSite_cmd15 (fun k t => .next (epyxMw k addr len d t)) hseq

theorem epyxReset_on (hfeat : s.cfg.featEpyx = true) :
    epyxReset s = { s with epyx := { s.epyx with ctr := 0, ver := none } } :=
  if_pos hfeat

theorem epyxReset_count (hfeat : s.cfg.featEpyx = true) :
    (epyxReset s).epyx.ctr = 0 ∧ (epyxReset s).epyx.ver = none ∧ (epyxReset s).epyx.dev = s.epyx.dev := by
  rw [epyxReset_on hfeat]
  exact ⟨rfl, rfl, rfl⟩

theorem epyxReset_off (hfeat : s.cfg.featEpyx = false) : epyxReset s = s := if_neg (Bool.eq_false_iff.1 hfeat)

theorem epyxOn_true (hfeat : s.cfg.featEpyx = true) (henabled : s.flag k .epyxEnabled = true) : epyxOn s k = true :=
  Bool.and_eq_true_iff.2 ⟨hfeat, henabled⟩

theorem epyxOn_false (hoff : s.cfg.featEpyx = false ∨ s.flag k .epyxEnabled = false) : epyxOn s k = false :=
  Bool.and_eq_false_iff.2 hoff

theorem epyxContinues_iff {w : WriteMark} : epyxContinues s k w = true ↔
    s.epyx.ctr = 1 ∧ s.epyx.dev = k ∧ ∃ v, s.epyx.ver = some v ∧ (signature s.cfg v).second = w := by
  cases hver : s.epyx.ver <;> simp [epyxContinues, hver, and_assoc, eq_comm (a := k)]

/-- A write to a device without Epyx, or an incomplete one, resets the count. -/
theorem epyxMw_uncounted (h : epyxOn s k = false ∨ d.length < len.toNat) : epyxMw k addr len d s = epyxReset s := by
  obtain hoff | hshort := h
  · simp [epyxMw, hoff]
  · simp [epyxMw, hshort]

section Counted

variable (hon : epyxOn s k = true) (hlen : len.toNat ≤ d.length)

include hon hlen

theorem epyxMw_second (hnext : epyxContinues s k ⟨addr, len, sumBytes d⟩ = true) :
    epyxMw k addr len d s = { s with epyx := { s.epyx with ctr := 2 } } := by
  simp [epyxMw, hon, Nat.not_lt.2 hlen, hnext]

theorem epyxMw_first {v : EpyxVer} (hno : epyxContinues s k ⟨addr, len, sumBytes d⟩ = false)
    (hstart : versionStarting s.cfg ⟨addr, len, sumBytes d⟩ = some v) :
    epyxMw k addr len d s = { s with epyx := { s.epyx with ctr := 1, ver := some v, dev := k } } := by
  simp [epyxMw, hon, Nat.not_lt.2 hlen, hno, hstart]

theorem epyxMw_unmatched (hno : epyxContinues s k ⟨addr, len, sumBytes d⟩ = false)
    (hstart : versionStarting s.cfg ⟨addr, len, sumBytes d⟩ = none) : epyxMw k addr len d s = epyxReset s := by
  simp [epyxMw, hon, Nat.not_lt.2 hlen, hno, hstart]

end Counted

/-- The write counter changes the Epyx registers alone. -/
theorem epyxMw_only (k : Nat) (addr : BitVec 16) (len : Byte) (d : List Byte) (s : State) :
    epyxMw k addr len d s = { s with epyx := (epyxMw k addr len d s).epyx } := by
  have reset : epyxReset s = { s with epyx := (epyxReset s).epyx } := by rw [epyxReset_eq]
  unfold epyxMw
  split
  · exact reset
  · split
    · exact reset
    · dsimp only
      split
      · rfl
      · split
        · rfl
        · exact reset

end Write

/-- Settles O38: at the decode point the command is `epyxMw`, by whether the write counts, continues the version under
way, or starts one. -/
theorem memoryWritesAreCountedAgainstTheSignatures : Obligations.MemoryWritesAreCountedAgainstTheSignatures := by
  rintro s k rest addr len d w hseq rfl
  refine ⟨_, (exec_memWrite hseq).trans (congrArg _ (epyxMw_only k addr len d _)), (commandFrame_epyxMw ..).sum,
    fun hoff => ?without, fun hfeat hno => ?uncounted, fun hfeat henabled hlen =>
      ⟨fun v hctr hdev hver hsecond => ?second, fun hother => ⟨fun v hstart => ?first, fun hstart => ?unmatched⟩⟩⟩
  case without =>
    rw [epyxMw_uncounted (s := { s with seq := rest }) (.inl (epyxOn_false (.inl hoff))),
      epyxReset_off (s := { s with seq := rest }) hoff]
  case uncounted =>
    rw [epyxMw_uncounted (s := { s with seq := rest })
      (hno.imp_left fun hdisabled => epyxOn_false (.inr hdisabled))]
    exact epyxReset_count hfeat
  case second =>
    rw [epyxMw_second (s := { s with seq := rest }) (epyxOn_true hfeat henabled) hlen
      (epyxContinues_iff.2 ⟨hctr, hdev, v, hver, hsecond⟩)]
    exact ⟨rfl, hver, hdev⟩
  all_goals
    have hno : epyxContinues { s with seq := rest } k ⟨addr, len, sumBytes d⟩ = false :=
      Bool.eq_false_iff.2 (mt epyxContinues_iff.1 hother)
  case first =>
    rw [epyxMw_first (s := { s with seq := rest }) (epyxOn_true hfeat henabled) hlen hno hstart]
    exact ⟨rfl, rfl, rfl⟩
  case unmatched =>
    rw [epyxMw_unmatched (s := { s with seq := rest }) (epyxOn_true hfeat henabled) hlen hno hstart]
    exact epyxReset_count hfeat

/-! ## The execute, and step S4 (44_epyx R803, R805, 45_scheduler R904) -/

section Execute

variable {addr : BitVec 16}

theorem exec_memExecute (hseq : s.seq = .decode (.cmd15 k) :: rest) :
    exec (.memExecute addr) s = .next (epyxMe k addr { s with seq := rest }) :=
  atSite_cmd15 (fun k t => .next (epyxMe k addr t)) hseq

theorem epyxEnds_iff : epyxEnds s k addr = true ↔
    s.epyx.ctr = 2 ∧ s.epyx.dev = k ∧ ∃ v, s.epyx.ver = some v ∧ addr = (signature s.cfg v).exec := by
  cases hver : s.epyx.ver <;> simp [epyxEnds, hver, and_assoc, eq_comm (a := k)]

theorem epyxMe_matched (hon : epyxOn s k = true) (hends : epyxEnds s k addr = true) :
    epyxMe k addr s = epyxReset (s.setFlag k .epyxHeader) :=
  if_pos (Bool.and_eq_true_iff.2 ⟨hon, hends⟩)

theorem epyxMe_unmatched (hno : epyxOn s k = false ∨ ¬ epyxEnds s k addr = true) :
    epyxMe k addr s = epyxReset s :=
  if_neg (Bool.eq_false_iff.1 (Bool.and_eq_false_iff.2 (hno.imp_right Bool.eq_false_iff.2)))

end Execute

theorem stepEpyx_idle (hfeat : s.cfg.featEpyx = true) (hidle : s.bus.mode = .idle) : stepEpyx s = epyxPending s :=
  if_pos ⟨hfeat, hidle⟩

theorem epyxPending_header (hleast : leastWith s [.epyxHeader, .epyxLoad, .epyxSectorOp] = some k)
    (hheader : s.flag k .epyxHeader = true) :
    epyxPending s = if readLine s .data = .high then epyxHeader k s else .next s := by
  simp only [epyxPending, hleast, hheader, if_true]

/-- Settles O39: at the decode point the command is `epyxMe`, and step S4 with a header upload pending is
`epyxPending_header`. -/
theorem memoryExecuteSetsTheHeaderFlag : Obligations.MemoryExecuteSetsTheHeaderFlag := by
  intro s k rest addr hseq
  rw [exec_memExecute hseq]
  refine ⟨fun hoff => congrArg _ ?without, fun v hfeat henabled hctr hdev hver haddr => congrArg _ ?matched,
    fun hfeat hno => congrArg _ ?unmatched, fun u more hseq hfeat hidle hleast hheader => ?header⟩
  case without => 
    exact (epyxMe_unmatched (s := { s with seq := rest }) (.inl (epyxOn_false (.inl hoff)))).trans (epyxReset_off hoff)
  case matched =>
    exact (epyxMe_matched (s := { s with seq := rest }) (epyxOn_true hfeat henabled)
      (epyxEnds_iff.2 ⟨hctr, hdev, v, hver, haddr⟩)).trans (epyxReset_on hfeat)
  case unmatched =>
    have unmatched : epyxOn { s with seq := rest } k = false ∨ ¬ epyxEnds { s with seq := rest } k addr = true := by
      rw [epyxEnds_iff]
      obtain hdisabled | hctr | hdev | haddr := hno
      · exact .inl (epyxOn_false (.inr hdisabled))
      · exact .inr fun h => hctr h.1
      · exact .inr fun h => hdev h.2.1
      · exact .inr fun ⟨_, _, v, hver, h⟩ => haddr v hver h
    exact (epyxMe_unmatched unmatched).trans (epyxReset_on hfeat)
  case header =>
    have pending : step u = if readLine u .data = .high then epyxHeader k { u with seq := .tick .s5 :: more }
        else .next { u with seq := .tick .s5 :: more } :=
      (step_tick hseq).trans ((stepEpyx_idle (s := { u with seq := .tick .s5 :: more }) hfeat hidle).trans
        (epyxPending_header (s := { u with seq := .tick .s5 :: more }) hleast hheader))
    rw [pending]
    exact ⟨fun hlow => if_neg (by simp [hlow]), fun hhigh => if_pos hhigh⟩

/-! ## The byte frame (44_epyx R806) -/

theorem flipLevel_ne (lvl : Level) : flipLevel lvl ≠ lvl := by cases lvl <;> decide

/-- A byte is received masked, from its first CLK toggle on. -/
theorem epyxReceive_unmasked (ps : List Pos) (hmask : s.fl.irqMasked = false) : epyxReceive ps s = .next { s with
    fl := { s.fl with irqMasked := true }
    seq := .yield (.waitFor .clk (flipLevel (readLine s .clk)) 0 (now s) true) ::
      .epyx (.rxBit 0 0x00 (flipLevel (readLine s .clk))) :: ps ++ s.seq } := by
  rw [epyxReceive, maskIrq_next.2 ⟨hmask, rfl⟩]
  rfl

/-- A sample of the byte: DATA low is a 1. -/
def epyxSample (s : State) (i : Nat) (v : Byte) : Byte := putBit v (epyxRxPlace s.cfg i) (lineLow s .data)

theorem epyxRxBit_more {i : Nat} (v : Byte) (lvl : Level) (hi : i < 7) : epyxRxBit i v lvl s =
    .next (s.waitFor .clk (flipLevel lvl) 0 [.epyx (.rxBit (i + 1) (epyxSample s i v) (flipLevel lvl))]) :=
  if_pos hi

theorem epyxRxBit_last (v : Byte) (lvl : Level) (hidle : s.fl.irqPending = false) : epyxRxBit 7 v lvl s = .next { s with
    fl := { s.fl with irqMasked := false }
    work := { s.work with byte := epyxSample s 7 v } } := by
  simp only [epyxRxBit, unmaskIrq_idle hidle, epyxSample]
  rfl

/-- Settles O46: the sample is `putBit` of DATA, low for 1, at its place, and the byte ends with the eighth. -/
theorem epyxSamplesDataInverted : Obligations.EpyxSamplesDataInverted := by
  intro s i v lvl rest hseq _ hidle _ hclear
  refine ⟨epyxSample s i v, fun j hj => ?sample, fun hi => ⟨flipLevel lvl, flipLevel_ne lvl, ?more⟩, ?last⟩
  case sample =>
    have level : decide (readLine s .data = .low) = lineLow s .data := by simp [readLine_eq_low_iff]
    rw [epyxSample, getLsbD_putBit _ hclear hj, level]
  case more => exact (step_epyx hseq).trans (epyxRxBit_more (s := { s with seq := rest }) v lvl hi)
  case last =>
    rintro rfl
    exact (step_epyx hseq).trans (epyxRxBit_last (s := { s with seq := rest }) v lvl hidle)

end Sys2Proof.Machine

/-! # Proofs for 44_epyx: the sums, the filename, and the heartbeat -/

namespace Sys2Proof.Machine

variable {s : State} {i : Instr} {k : Nat} {sum len : Byte} {rest : List Pos}

/-! ## The routine sums (44_epyx R808, R818) -/

theorem atSite_sum (f : Nat → State → Res) (hseq : s.seq = .decode (.sum k sum) :: rest) :
    atSite s f = f k { s with seq := rest } := by
  simp only [atSite, siteDevice, hseq, State.pop, List.tail_cons]

/-- The three versions have one load protocol. -/
theorem exec_loadSum (hi : i = .epyxLoadV1 ∨ i = .epyxLoadV2 ∨ i = .epyxLoadV3)
    (hseq : s.seq = .decode (.sum k sum) :: rest) : exec i s = epyxFilename k { s with seq := rest } := by
  obtain rfl | rfl | rfl := hi <;> exact atSite_sum epyxFilename hseq

theorem exec_sectorSum {routine : Byte} (hi : i = .epyxSector0B ∧ routine = 0x0B ∨
      i = .epyxSectorB8 ∧ routine = 0xB8 ∨ i = .epyxSectorBA ∧ routine = 0xBA)
    (hseq : s.seq = .decode (.sum k sum) :: rest) :
    exec i s = epyxSector k routine { s with seq := rest } := by
  obtain ⟨rfl, rfl⟩ | ⟨rfl, rfl⟩ | ⟨rfl, rfl⟩ := hi <;>
    exact atSite_sum (fun k t => epyxSector k _ t) hseq

theorem exec_unknownSum {b : Byte} (hseq : s.seq = .decode (.sum k sum) :: rest) :
    exec (.epyxUnknownSum b) s = failWith .checksumMismatch { s with seq := rest } :=
  atSite_sum (fun _ t => failWith .checksumMismatch t) hseq

theorem epyxSector_with (hops : s.cfg.sectorOps = true) : epyxSector k sum s = .next { s with
    dev := (s.setFlag k .epyxSectorOp).dev
    epyx := { s.epyx with sum := sum } } :=
  if_pos hops

theorem epyxSector_without (hops : s.cfg.sectorOps = false) : epyxSector k sum s = failWith .checksumMismatch s :=
  if_neg (Bool.eq_false_iff.1 hops)

/-- Settles O41: a load sum is `epyxFilename`, which receives a byte, and a sector sum is `epyxSector`. -/
theorem knownSumsStartTheirProtocol : Obligations.KnownSumsStartTheirProtocol := by
  intro s i k sum rest hseq
  refine ⟨fun hi hmask => ⟨_, flipLevel_ne _, (exec_loadSum hi hseq).trans ?load⟩,
    fun hi hops => (exec_sectorSum hi hseq).trans (epyxSector_with (s := { s with seq := rest }) hops)⟩
  case load => exact epyxReceive_unmasked (s := { s with seq := rest }) [.epyx (.nameLen k)] hmask

theorem unguard_unguarded (hmask : s.fl.irqMasked = false) (hpar : s.drv.parOutMode = false) : unguard s = s := by
  simp [unguard, hmask, hpar]

/-- A failure of step S4, outside a masked block and with the parallel bus at input, goes on at S7. -/
theorem failWith_s4 {kind : ErrKind} (haddr : kind ≠ .notAddressed) (hverify : kind ≠ .verifyError)
    (hseq : s.seq = .tick .s5 :: rest) (hmask : s.fl.irqMasked = false) (hpar : s.drv.parOutMode = false) :
    failWith kind s = .next (onFail kind { s with seq := .tick .s7 :: rest }) := by
  rw [failWith_next haddr hverify, unguard_unguarded hmask hpar, hseq]
  rfl

/-- Settles O42: these sums fail with `ChecksumMismatch`, which only releases the lines. -/
theorem unknownSumReleasesTheLinesOnly : Obligations.UnknownSumReleasesTheLinesOnly := by
  intro s i k sum rest hseq hmask hpar hi
  have fails : exec i s = failWith .checksumMismatch { s with seq := .tick .s5 :: rest } := by
    obtain rfl | ⟨hops, rfl | rfl | rfl⟩ := hi
    · exact exec_unknownSum hseq
    · exact (exec_sectorSum (.inl ⟨rfl, rfl⟩) hseq).trans (epyxSector_without hops)
    · exact (exec_sectorSum (.inr (.inl ⟨rfl, rfl⟩)) hseq).trans (epyxSector_without hops)
    · exact (exec_sectorSum (.inr (.inr ⟨rfl, rfl⟩)) hseq).trans (epyxSector_without hops)
  rw [fails]
  exact failWith_s4 (s := { s with seq := .tick .s5 :: rest }) (by decide) (by decide) rfl hmask hpar

/-! ## The filename (44_epyx R809, R810) -/

theorem exec_epyxHdr (hseq : s.seq = .decode (.header k len) :: rest) :
    exec (.epyxHdr len) s = epyxNameStart k len { s with seq := rest } := by
  simp only [exec, execEpyxHdr, atSite, siteDevice, hseq, State.pop, List.tail_cons]

theorem epyxNameStart_free (hnone : s.dol.preN = 0) :
    epyxNameStart k len s = epyxName k len 0 { s with dol := { s.dol with capN := 0 } } :=
  if_pos hnone

theorem epyxName_more {j : Nat} (hj : j < len.toNat) :
    epyxName k len j s = epyxReceive [.epyx (.nameByte k len j)] s :=
  if_pos hj

theorem epyxName_dropped {j : Nat} (hj : len.toNat ≤ j) (hlong : s.cfg.bufSize < len.toNat) :
    epyxName k len j s = .next { s with drv := { s.drv with clk := false, data := false } } :=
  (if_neg (Nat.not_lt.2 hj)).trans (if_pos hlong)

theorem epyxName_complete {j : Nat} (hj : len.toNat ≤ j) (hfits : len.toNat ≤ s.cfg.bufSize) :
    epyxName k len j s = epyxOpen k len.toNat s :=
  (if_neg (Nat.not_lt.2 hj)).trans (if_neg (Nat.not_lt.2 hfits))

/-- Channel 0 is opened with the name that `buf` holds. -/
theorem epyxOpen_named {n : Nat} {name : List Byte} (hread : memBytes s.cfg.bufSize s.buf 0 n = .ok name) :
    epyxOpen k n s = .next { s with seq := .yield (.call (.listen k 0xF0)) :: (heldWrites k true name ++
      .yield (.call (.unlisten k)) :: .yield (.call (.talk k 0x60)) :: .epyx (.opened k) :: s.seq) } := by
  simp only [epyxOpen, hread, State.push, List.cons_append, List.append_assoc, List.nil_append]

theorem epyxNameStart_named (hnone : s.dol.preN = 0) (hlen : len ≠ 0) (hmask : s.fl.irqMasked = false) :
    epyxNameStart k len s = .next { s with
      fl := { s.fl with irqMasked := true }
      dol := { s.dol with capN := 0 }
      seq := .yield (.waitFor .clk (flipLevel (readLine s .clk)) 0 (now s) true) ::
        .epyx (.rxBit 0 0x00 (flipLevel (readLine s .clk))) :: .epyx (.nameByte k len 0) :: s.seq } := by
  have first : 0 < len.toNat := Nat.pos_of_ne_zero fun h => hlen (BitVec.eq_of_toNat_eq h)
  rw [epyxNameStart_free hnone, epyxName_more first]
  exact epyxReceive_unmasked (s := { s with dol := { s.dol with capN := 0 } }) _ hmask

theorem epyxNameStart_empty (hnone : s.dol.preN = 0) (hlen : len = 0) : epyxNameStart k len s = .next { s with
    dol := { s.dol with capN := 0 }
    seq := .yield (.call (.listen k 0xF0)) :: .yield (.call (.unlisten k)) :: .yield (.call (.talk k 0x60)) ::
      .epyx (.opened k) :: s.seq } := by
  have nothing : len.toNat = 0 := congrArg BitVec.toNat hlen
  rw [epyxNameStart_free hnone, epyxName_complete nothing.le (nothing.le.trans (Nat.zero_le _)), nothing]
  exact epyxOpen_named (name := []) rfl

/-- Settles O43: the command is `epyxNameStart`, which flushes held bytes first, and else goes on with the name. -/
theorem filenameLengthClaimsTheBuffer : Obligations.FilenameLengthClaimsTheBuffer := by
  intro s k len rest hseq hmask
  rw [exec_epyxHdr hseq]
  refine ⟨flushThen_held (s := { s with seq := rest }) _ _,
    fun hnone hlen => ⟨_, flipLevel_ne _, epyxNameStart_named (s := { s with seq := rest }) hnone hlen hmask⟩,
    fun hnone hlen => epyxNameStart_empty (s := { s with seq := rest }) hnone hlen, fun u hu hnone => ?resumed⟩
  case resumed =>
    have again : exec (.epyxHdr len) { u with seq := .decode (.header k len) :: rest } =
        epyxNameStart k len { u with seq := rest } := exec_epyxHdr rfl
    rw [again, epyxNameStart_free (s := { u with seq := rest }) hnone]
    exact step_epyx hu

/-- The memory after name byte `j`: the byte is stored at its place from the end, unless the name is too long. -/
def namedMemory (len : Byte) (j : Nat) (s : State) : Memory :=
  if len.toNat ≤ s.cfg.bufSize then memSet s.buf (len.toNat - 1 - j) s.work.byte else s.buf

theorem epyxNameByte_eq {j : Nat} (hj : j < len.toNat) :
    epyxNameByte k len j s = epyxName k len (j + 1) { s with buf := namedMemory len j s } := by
  unfold epyxNameByte namedMemory
  split
  · rw [bufWrite_eq _ (by omega)]
    rfl
  · rfl

theorem memGet_namedMemory {j : Nat} (hfits : len.toNat ≤ s.cfg.bufSize) (a : Nat) :
    memGet (namedMemory len j s) a = if a = len.toNat - 1 - j then some s.work.byte else memGet s.buf a := by
  rw [namedMemory, if_pos hfits, memGet_memSet]

theorem namedMemory_dropped {j : Nat} (hlong : s.cfg.bufSize < len.toNat) : namedMemory len j s = s.buf :=
  if_neg (Nat.not_le.2 hlong)

/-- Settles O45: a name byte is stored and the next one received, until the name is complete: it is then dropped, or
read back and handed to the device. -/
theorem filenameArrivesInReverse : Obligations.FilenameArrivesInReverse := by
  intro s k len i rest
  refine ⟨fun hseq hmask hi => ?byte, fun hseq => step_epyx hseq⟩
  have stored : step s = epyxName k len (i + 1) { s with seq := rest, buf := namedMemory len i s } :=
    (step_epyx hseq).trans (epyxNameByte_eq (s := { s with seq := rest }) hi)
  refine ⟨fun hmore => ?more, fun hlast hlong => ?dropped, fun init last hlast hfits hlen hname => ?opened⟩
  case more =>
    refine ⟨_, _, flipLevel_ne _, stored.trans ((epyxName_more hmore).trans
      (epyxReceive_unmasked (s := { s with seq := rest, buf := namedMemory len i s }) _ hmask)),
      memGet_namedMemory, namedMemory_dropped, rfl⟩
  case dropped =>
    rw [namedMemory_dropped hlong] at stored
    exact stored.trans (epyxName_dropped hlast.ge hlong)
  case opened =>
    have memory (a : Nat) : memGet (namedMemory len i s) a = if a = 0 then some s.work.byte else memGet s.buf a := by
      rw [memGet_namedMemory hfits, show len.toNat - 1 - i = 0 by omega]
    have read : memBytes s.cfg.bufSize (namedMemory len i s) 0 len.toNat = .ok (init ++ [last]) := by
      rw [← hlen] at hfits hname ⊢
      refine memBytes_of_memGet (by omega) fun a ha => ?_
      rw [Nat.zero_add, memory, hname a ha]
    have complete : step s = epyxOpen k len.toNat { s with seq := rest, buf := namedMemory len i s } :=
      stored.trans (epyxName_complete hlast.ge hfits)
    refine ⟨_, complete.trans (epyxOpen_named read), memory, ?_⟩
    simp only [heldWrites_concat, List.append_assoc, List.cons_append, List.nil_append]

/-! ## The heartbeat (44_epyx R814, R815) -/

section Beat

variable {j : Nat}

theorem epyxBeat_over (hmax : s.cfg.heartbeatMax ≤ j) :
    epyxBeat k j s = failWith .timeoutMissedEdge (s.clearFlag k .epyxSectorOp) :=
  if_neg (Nat.not_lt.2 hmax)

theorem epyxBeat_pulse (hj : j < s.cfg.heartbeatMax) (hlow : readLine s .data = .low) : epyxBeat k j s =
    .next ((setClk true s).waitHalf (now s) s.cfg.tHeartbeatPeriod [.epyx (.beatLow k j)]) :=
  (if_pos hj).trans (if_neg (by simp [hlow]))

theorem epyxBeat_answered (hj : j < s.cfg.heartbeatMax) (hhigh : readLine s .data = .high) :
    epyxBeat k j s = epyxReceive [.epyx (.sectorTrack k)] (setClk false s) :=
  (if_pos hj).trans (if_pos hhigh)

end Beat

/-- Settles O47: an iteration is `epyxBeat`, by its number and DATA. -/
theorem heartbeatEndsWhenTheHostIsGone : Obligations.HeartbeatEndsWhenTheHostIsGone := by
  refine ⟨fun s k i rest hseq hmask hpar => ?_, fun s k i rest hseq => step_epyx hseq⟩
  have beat : step s = epyxBeat k i { s with seq := .tick .s5 :: rest } := step_epyx hseq
  refine ⟨fun hmax => ?timeout, fun hi hlow => beat.trans (epyxBeat_pulse hi hlow), fun hi hhigh => ?answered⟩
  case timeout =>
    exact beat.trans ((epyxBeat_over (s := { s with seq := .tick .s5 :: rest }) hmax).trans
      (failWith_s4 (s := State.clearFlag k .epyxSectorOp { s with seq := .tick .s5 :: rest }) (by decide) (by decide)
        rfl hmask hpar))
  case answered =>
    have received : step s = epyxReceive [.epyx (.sectorTrack k)] (setClk false { s with seq := .tick .s5 :: rest }) :=
      beat.trans (epyxBeat_answered hi hhigh)
    refine ⟨_, flipLevel (readLine (setClk false s) .clk), received.trans (epyxReceive_unmasked _ hmask), ?_, rfl⟩
    exact flipLevel_ne (readLine (setClk false s) .clk)

end Sys2Proof.Machine

/-! # Proofs for 44_epyx: a failed block, and what the uploads leave alone -/

namespace Sys2Proof.Machine

variable {s t : State} {k : Nat} {rest : List Pos}

/-! ## A failure inside a block (44_epyx R812, R813, 60_exceptions R1001) -/

/-- The frame of the block catches a failure inside it. -/
theorem failWith_guarded {kind : ErrKind} {frames : List Pos} (haddr : kind ≠ .notAddressed)
    (hverify : kind ≠ .verifyError) (hframes : ∀ f ∈ frames, f.catches = false)
    (hseq : s.seq = frames ++ .epyx (.guarded k) :: rest) :
    failWith kind s = .next { unguard s with seq := .epyx (.abort k kind) :: rest } := by
  rw [failWith_next haddr hverify, hseq, unwind_passes kind frames _ _ hframes]
  rfl

theorem flag_epyxFinished (s : State) (k : Nat) (ps : List Pos) :
    ((s.clearFlag k .epyxLoad).push ps).flag k .epyxLoad = false :=
  (State.flag_clearFlag ..).trans (if_pos ⟨rfl, rfl⟩)

/-- What a failure does first, inside a tick, leaves both memories. -/
theorem sameMemory_unguard (htick : s.fl.inTick = true) : SameMemory s (unguard s) := by
  obtain ⟨-, -, only, -⟩ := unguard_inTick htick
  intro a
  rw [only]
  exact ⟨rfl, rfl⟩

/-- Settles O16: the failure stops at the block's frame, whose next statement is `epyxFinish` before the failure is
raised again. -/
theorem failedEpyxBlockClosesTheFile : Obligations.FailedEpyxBlockClosesTheFile := by
  intro kind s frames rest k haddr hverify hframes hseq htick
  have aborted : step { unguard s with seq := .epyx (.abort k kind) :: rest } =
      epyxFinish k [.raise kind] { unguard s with seq := rest } :=
    step_epyx (s := { unguard s with seq := .epyx (.abort k kind) :: rest }) rfl
  exact ⟨_, _, failWith_guarded haddr hverify hframes hseq, aborted, rfl,
    flag_epyxFinished { unguard s with seq := rest } k _, sameMemory_unguard htick⟩

/-! ## The sums and the filename length (44_epyx R808, R809, R818) -/

/-- Only what an upload writes has changed, and the table. -/
def OnlyUploads (s t : State) : Prop :=
  t = { s with
    seq := t.seq
    bus := { s.bus with done := t.bus.done }
    fl := { s.fl with irqMasked := t.fl.irqMasked }
    dev := t.dev
    drv := t.drv
    dol := t.dol
    epyx := t.epyx }

/-- What an upload for device `k` leaves alone, past its decode point. -/
structure UploadFrame (k : Nat) (s t : State) : Prop where
  only : OnlyUploads s t
  table : tableOf t = tableOf s
  flags : ∀ (j : Nat) (f : ProtoFlag), j ≠ k ∨ f ≠ .epyxSectorOp → t.flag j f = s.flag j f

theorem uploadFrame_of_eq (h : OnlyUploads s t) (hdev : t.dev = s.dev) : UploadFrame k s t where
  only := h
  table := by rw [tableOf, hdev, tableOf]
  flags j f _ := by
    have hcfg : t.cfg = s.cfg := by rw [h]
    rw [State.flag, hdev, hcfg, State.flag]

theorem uploadFrame_epyxReceive (ps : List Pos) (s : State) : NextHas (UploadFrame k s) (epyxReceive ps s) := by
  cases hmask : s.fl.irqMasked with
  | false =>
    rw [epyxReceive_unmasked ps hmask]
    exact uploadFrame_of_eq rfl rfl
  | true =>
    rw [epyxReceive, maskIrq, if_pos hmask]
    trivial

/-- A failure on its way to the tick writes the sequencer, the drivers and `done` alone. -/
theorem unwind_only (kind : ErrKind) (ps : List Pos) (s : State) : unwind kind ps s = { s with
    seq := (unwind kind ps s).seq
    drv := (unwind kind ps s).drv
    bus := { s.bus with done := (unwind kind ps s).bus.done } } := by
  have translated (u : State) : onFail kind u = { u with
      seq := (onFail kind u).seq
      drv := (onFail kind u).drv
      bus := { u.bus with done := (onFail kind u).bus.done } } := by cases kind <;> rfl
  fun_induction unwind kind ps s with
  | case9 => rfl
  | case10 r s ih => exact ih
  | case11 p r s _ _ _ _ _ _ _ _ _ ih => exact ih
  | _ => exact translated _

theorem uploadFrame_failWith (kind : ErrKind) (hmask : s.fl.irqMasked = false) :
    NextHas (UploadFrame k s) (failWith kind s) := by
  have only : unguard s = { s with drv := (unguard s).drv } := by
    cases hpar : s.drv.parOutMode <;> simp [unguard, hmask, hpar, parInput]
  have frame : UploadFrame k s (unwind kind s.seq (unguard s)) := by
    rw [unwind_only, only]
    exact uploadFrame_of_eq rfl rfl
  cases kind with
  | verifyError => trivial
  | notAddressed => trivial
  | _ => exact frame

theorem uploadFrame_epyxSector (k : Nat) (sum : Byte) (hmask : s.fl.irqMasked = false) :
    NextHas (UploadFrame k s) (epyxSector k sum s) := by
  unfold epyxSector
  split
  · refine ⟨rfl, tableOf_setFlag { s with epyx := { s.epyx with sum := sum } } k .epyxSectorOp, fun j f hf => ?_⟩
    exact (State.flag_setFlag ..).trans (if_neg fun ⟨hj, hfe, _⟩ => hf.elim (· hj) (· hfe))
  · exact uploadFrame_failWith _ hmask

theorem uploadFrame_epyxName (k : Nat) (len : Byte) (j : Nat) (s : State) :
    NextHas (UploadFrame k s) (epyxName k len j s) := by
  unfold epyxName epyxOpen
  split
  · exact uploadFrame_epyxReceive _ s
  · split
    · exact uploadFrame_of_eq rfl rfl
    · split
      · trivial
      · exact uploadFrame_of_eq rfl rfl

/-- The end of a claim is among what an upload writes. -/
theorem UploadFrame.of_dropCapture (h : UploadFrame k (dropCapture s) t) : UploadFrame k s t :=
  ⟨h.only, h.table, h.flags⟩

theorem uploadFrame_epyxNameStart (k : Nat) (len : Byte) (s : State) :
    NextHas (UploadFrame k s) (epyxNameStart k len s) := by
  unfold epyxNameStart flushThen dolFlush
  split
  · exact nextHas_imp (fun _ => UploadFrame.of_dropCapture) (uploadFrame_epyxName k len 0 (dropCapture s))
  · split
    · trivial
    · exact uploadFrame_of_eq rfl rfl

/-- An upload acts for the device of its decode point. -/
theorem uploadFrame_atSite {f : Nat → State → Res} (hf : ∀ k, NextHas (UploadFrame k s.pop) (f k s.pop)) :
    NextHas (fun t => ∃ k, siteDevice s = some k ∧ UploadFrame k s.pop t) (atSite s f) := by
  unfold atSite
  split
  · next k hsite => exact nextHas_imp (fun _ ht => ⟨k, hsite, ht⟩) (hf k)
  · trivial

/-- All that a sum or a filename length can do. -/
theorem uploadFrame_exec {i : Instr} (hf : formatOf i = .epyxSum ∨ formatOf i = .epyxHdr)
    (hmask : s.fl.irqMasked = false) :
    NextHas (fun t => ∃ k, siteDevice s = some k ∧ UploadFrame k s.pop t) (exec i s) := by
  cases i with
  | epyxLoadV1 | epyxLoadV2 | epyxLoadV3 => exact uploadFrame_atSite fun _ => uploadFrame_epyxReceive _ s.pop
  | epyxSector0B | epyxSectorB8 | epyxSectorBA =>
    exact uploadFrame_atSite fun k => uploadFrame_epyxSector (s := s.pop) k _ hmask
  | epyxUnknownSum sum => exact uploadFrame_atSite fun _ => uploadFrame_failWith (s := s.pop) _ hmask
  | epyxHdr len => exact uploadFrame_atSite fun k => uploadFrame_epyxNameStart k len s.pop
  | _ => exact absurd hf (by simp [formatOf])

/-- Settles O44: every upload keeps to `UploadFrame` past its decode point. -/
theorem uploadsLeaveTheRestAlone : Obligations.UploadsLeaveTheRestAlone := by
  intro s t i hf hmask hexec
  have frame := uploadFrame_exec hf hmask
  rw [hexec] at frame
  obtain ⟨k, hsite, only, table, flags⟩ := frame
  refine ⟨?memory, ?fixed, ?env, ?work, ?addr, ?sel, ?cmd, ?talk, ?fl, ?mode, table, fun j f hf =>
    flags j f (hf.imp_left ?device)⟩
  case device => exact fun hother hj => hother (hj ▸ hsite)
  all_goals rw [only]
  case memory => exact fun a => ⟨rfl, rfl⟩
  case fixed => exact ⟨rfl, rfl, rfl, rfl⟩
  all_goals rfl

end Sys2Proof.Machine

/-! # Proofs for 45_scheduler: failures, the ATN interrupt, RESET, and the listen, talk and last steps of a tick -/

namespace Sys2Proof.Machine

variable {s : State} {k : Nat} {rest : List Pos}

/-! ## A failure of a step of the tick (45_scheduler R915, 60_exceptions R1001) -/

section Failure

variable {kind : ErrKind} {frames burst : List Pos} {p q : TickPos}

/-- After a failure of step `p`, the tick goes on at `q`. -/
def TickPos.FailsTo (p q : TickPos) : Prop :=
  (p = .s3 ∨ p = .s4 ∨ p = .s5 ∨ p = .s6 ∨ p = .s7) ∧ q = .s7 ∨ p = .s8 ∧ q = .s8 ∨ p = .posted ∧ q = .posted

/-- The callers from the frame of a burst transmit on, up to the step of the tick, or none (43_dolphindos R712). -/
def BurstFrame (burst : List Pos) : Prop :=
  burst = [] ∨ ∃ callers, burst = .dol .releaseClk :: callers ∧ ∀ f ∈ callers, f.catches = false

theorem unwind_tick (h : p.FailsTo q) (s : State) :
    unwind kind (.tick p :: rest) s = onFail kind { s with seq := .tick q :: rest } := by
  obtain ⟨rfl | rfl | rfl | rfl | rfl, rfl⟩ | ⟨rfl, rfl⟩ | ⟨rfl, rfl⟩ := h <;> rfl

/-- A failure passes a burst transmit, which releases CLK and the parallel bus. -/
theorem unwind_burst (hburst : BurstFrame burst) (ps : List Pos) (s : State) (hpar : s.drv.parOutMode = false) :
    ∃ clk, (burst = [] → clk = s.drv.clk) ∧ (burst ≠ [] → clk = false) ∧
      unwind kind (burst ++ ps) s = unwind kind ps { s with drv := { s.drv with clk := clk, parOutMode := false } } := by
  obtain rfl | ⟨callers, rfl, hcallers⟩ := hburst
  · exact ⟨s.drv.clk, fun _ => rfl, fun hne => absurd rfl hne, by rw [← hpar]; rfl⟩
  · exact ⟨false, nofun, fun _ => rfl, unwind_passes kind callers ps _ hcallers⟩

/-- What a failure has done when it reaches the tick: unmasked, with the parallel bus at input, and CLK released by a
burst transmit on its way. -/
theorem failWith_reaches_tick (haddr : kind ≠ .notAddressed) (hverify : kind ≠ .verifyError)
    (hframes : ∀ f ∈ frames, f.catches = false) (hburst : BurstFrame burst) (hpq : p.FailsTo q)
    (hseq : s.seq = frames ++ burst ++ .tick p :: rest) (htick : s.fl.inTick = true) :
    ∃ fl clk, fl.irqMasked = false ∧ (burst = [] → clk = s.drv.clk) ∧ (burst ≠ [] → clk = false) ∧
      failWith kind s = .next (onFail kind { s with
        seq := .tick q :: rest
        fl := fl
        drv := { s.drv with clk := clk, parOutMode := false } }) := by
  obtain ⟨unmasked, input, only, -⟩ := unguard_inTick htick
  obtain ⟨clk, plain, released, hunwind⟩ := unwind_burst (kind := kind) hburst (.tick p :: rest) (unguard s) input
  have same : (unguard s).drv.clk = s.drv.clk := by rw [only]
  refine ⟨(unguard s).fl, clk, unmasked, fun h => (plain h).trans same, released, ?_⟩
  rw [failWith_next haddr hverify, hseq, List.append_assoc, unwind_passes kind frames _ _ hframes, hunwind,
    unwind_tick hpq, only]

/-- Settles O15: the failure reaches the tick by `failWith_reaches_tick`, and `onFail` translates its kind. -/
theorem failureReturnsToTheTick : Obligations.FailureReturnsToTheTick := by
  intro kind s frames burst rest p q haddr hverify hframes hburst hpq hseq htick
  obtain ⟨fl, clk, unmasked, plain, released, hfail⟩ :=
    failWith_reaches_tick haddr hverify hframes hburst hpq hseq htick
  refine ⟨_, hfail, ?_⟩
  cases kind with
  | notAddressed => exact absurd rfl haddr
  | verifyError => exact absurd rfl hverify
  | timeoutMissedEdge | deviceRefused =>
    exact ⟨rfl, unmasked, rfl, fun _ => ⟨rfl, rfl, rfl⟩, nofun, nofun, nofun, fun _ => rfl, rfl, rfl, rfl,
      fun _ => ⟨rfl, rfl⟩⟩
  | checksumMismatch =>
    exact ⟨rfl, unmasked, rfl, (Or.elim · nofun nofun), fun _ => ⟨rfl, rfl, rfl⟩, nofun, nofun, fun _ => rfl, rfl, rfl,
      rfl, fun _ => ⟨rfl, rfl⟩⟩
  | atnPreempted =>
    exact ⟨rfl, unmasked, rfl, (Or.elim · nofun nofun), nofun, fun _ => ⟨rfl, rfl⟩, fun _ => plain, released, rfl, rfl,
      rfl, fun _ => ⟨rfl, rfl⟩⟩

end Failure

/-! ## The ATN interrupt (45_scheduler R912, 60_exceptions R1008, R1011 to R1013) -/

/-- At a yield point a move that comes next in the feed is taken from it and made. -/
theorem step_listedMove {y : Yield} {m : Move} {more : List Move} (hseq : s.seq = .yield y :: rest)
    (hfeed : s.env.feed = m :: more) : step s = runMove y m { s with env := { s.env with feed := more } } := by
  simp only [step, advance, hseq, yieldMove, nextMove, takeMove, hfeed]

theorem atnIsr_masked (hmask : s.fl.irqMasked = true) : atnIsr s = { s with fl := { s.fl with irqPending := true } } :=
  if_pos hmask

theorem atnIsr_inTick (hmask : s.fl.irqMasked = false) (htick : s.fl.inTick = true) : atnIsr s = s := by
  simp [atnIsr, hmask, htick]

theorem atnIsr_fall (hmask : s.fl.irqMasked = false) (htick : s.fl.inTick = false) (hlow : readLine s .atn = .low)
    (hatn : s.fl.atnActive = false) : atnIsr s = atnFall s := by
  simp [atnIsr, hmask, htick, readLine_eq_low_iff.1 hlow, hatn]

/-- An ISR that finds ATN high, or low and already seen, does nothing. -/
theorem atnIsr_noFall (hmask : s.fl.irqMasked = false) (hno : readLine s .atn = .high ∨ s.fl.atnActive = true) :
    atnIsr s = s := by
  obtain hhigh | hatn := hno
  · simp [atnIsr, hmask, readLine_eq_high_iff.1 hhigh]
  · simp [atnIsr, hmask, hatn]

section Fall

variable {d : Drives} (hattached : s.env.attached = true) (hlow : d.hostAtn = true)
  (hhigh : s.env.drives.hostAtn = false)
include hattached hlow hhigh

theorem driveLines_fall_masked (hmask : s.fl.irqMasked = true) : driveLines d s = { s with
    fl := { s.fl with irqPending := true }
    env := { s.env with drives := d, edge := false } } := by
  simp [driveLines, hattached, hlow, hhigh, hmask, atnIsr_masked]

theorem driveLines_fall_unmasked (hmask : s.fl.irqMasked = false) :
    driveLines d s = { s with env := { s.env with drives := d, edge := true } } := by
  simp [driveLines, hattached, hlow, hhigh, hmask]

end Fall

theorem dispatchedHere_iff {pin : Nat} : dispatchedHere s pin = true ↔ ⟨s.engine, pin⟩ ∈ s.registry := by
  simp only [dispatchedHere, List.any_eq_true, Bool.and_eq_true, beq_iff_eq]
  constructor
  · rintro ⟨⟨engine, atnPin⟩, hmem, rfl, rfl⟩
    exact hmem
  · exact fun hmem => ⟨_, hmem, rfl, rfl⟩

theorem deliverInterrupt_elsewhere {pin : Nat} (hslot : ⟨s.engine, pin⟩ ∉ s.registry) : deliverInterrupt pin s = s := by
  have other : dispatchedHere s pin = false := Bool.eq_false_iff.2 (mt dispatchedHere_iff.1 hslot)
  simp [deliverInterrupt, other]

theorem deliverInterrupt_here {pin : Nat} (hslot : ⟨s.engine, pin⟩ ∈ s.registry) (hattached : s.env.attached = true)
    (hedge : s.env.edge = true) : deliverInterrupt pin s = atnIsr { s with env := { s.env with edge := false } } := by
  simp [deliverInterrupt, dispatchedHere_iff.2 hslot, hattached, hedge]

theorem unmaskIrq_latched (hpending : s.fl.irqPending = true) :
    unmaskIrq s = atnIsr { s with fl := { s.fl with irqMasked := false, irqPending := false } } :=
  if_pos hpending

/-- Without a latched edge, or where the ISR would do nothing, the end of a mask only clears the mask and the latch. -/
theorem unmaskIrq_noFall (hno : s.fl.irqPending = false ∨ s.fl.inTick = true ∨ readLine s .atn = .high ∨
      s.fl.atnActive = true) :
    unmaskIrq s = { s with fl := { s.fl with irqMasked := false, irqPending := false } } := by
  obtain hidle | htick | hsame := hno
  · exact unmaskIrq_runsNothing (.inl hidle)
  · exact unmaskIrq_runsNothing (.inr htick)
  · cases hpending : s.fl.irqPending with
    | false => exact unmaskIrq_runsNothing (.inl hpending)
    | true => exact (unmaskIrq_latched hpending).trans (atnIsr_noFall rfl hsame)

/-- Settles O19: an edge is latched or held by `driveLines`, delivered through the registry's slots, and `atnIsr` says
what its delivery and the end of a mask do. -/
theorem interruptActsOnlyUnmaskedOutsideATick : Obligations.InterruptActsOnlyUnmaskedOutsideATick := by
  refine ⟨?edge, ?delivery, ?unmask⟩
  case edge =>
    intro s y rest more d hseq hfeed hattached hlow hhigh
    rw [step_listedMove hseq hfeed]
    exact ⟨fun hmask => congrArg _ (driveLines_fall_masked (s := { s with env := { s.env with feed := more } })
        hattached hlow hhigh hmask),
      fun hmask => congrArg _ (driveLines_fall_unmasked (s := { s with env := { s.env with feed := more } })
        hattached hlow hhigh hmask)⟩
  case delivery =>
    intro s s' y rest more pin hseq hfeed
    rw [step_listedMove hseq hfeed]
    refine ⟨fun hslot => congrArg _ (deliverInterrupt_elsewhere (s := { s with env := { s.env with feed := more } })
      hslot), ?_⟩
    rintro hslot hattached hedge rfl
    have delivered := deliverInterrupt_here (s := { s with env := { s.env with feed := more } }) hslot hattached hedge
    refine ⟨fun hmask => congrArg _ (delivered.trans ?masked), fun hmask htick => congrArg _ (delivered.trans ?inTick),
      fun hmask htick hlow hatn => congrArg _ (delivered.trans ?fall),
      fun hmask _ hno => congrArg _ (delivered.trans ?noFall)⟩
    case masked => exact atnIsr_masked hmask
    case inTick => exact atnIsr_inTick hmask htick
    case fall => exact atnIsr_fall hmask htick hlow hatn
    case noFall => exact atnIsr_noFall hmask hno
  case unmask =>
    rintro s s' rfl
    exact ⟨fun hpending htick hlow hatn => (unmaskIrq_latched hpending).trans (atnIsr_fall rfl htick hlow hatn),
      unmaskIrq_noFall⟩

/-! ## RESET (45_scheduler R901, 70_reset R1102) -/

theorem resetStep_edge (hpin : s.cfg.hasResetPin = true) (hlow : readLine s .reset = .low)
    (hseen : s.fl.resetSeenPrev = false) :
    resetStep s = resetAll { s with fl := { s.fl with resetSeenPrev := true } } := by
  simp [resetStep, hpin, readLine_eq_low_iff.1 hlow, hseen]

theorem resetStep_held (hpin : s.cfg.hasResetPin = true) (hlow : readLine s .reset = .low)
    (hseen : s.fl.resetSeenPrev = true) : resetStep s = s := by
  simp [resetStep, hpin, readLine_eq_low_iff.1 hlow, ← hseen]

/-- RESET gives every entry its configured flags (10_state R132). -/
theorem flags_resetFields {e : Entry} (he : e ∈ (resetFields s).dev) :
    e.flags = e.configured &&& persistentMask &&& wiredMask s.cfg := by
  obtain ⟨e, -, rfl⟩ := List.mem_map.1 he
  rfl

theorem tableOf_resetFields (s : State) : tableOf (resetFields s) = tableOf s :=
  map_identity_map _ _ (Entry.identity_restore s.cfg)

/-- Step S1 is `reset_step()` inside the tick, with S2 next. -/
theorem step_s1 (hseq : s.seq = .tick .s1 :: rest) :
    step s = .next (resetStep { s with seq := .tick .s2 :: rest, fl := { s.fl with inTick := true } }) :=
  step_tick hseq

/-- Settles O20: step S1 is `resetStep`, whose edge is `resetAll`. -/
theorem resetEdgeResetsEverythingButTheTable : Obligations.ResetEdgeResetsEverythingButTheTable := by
  intro s rest hseq hpin hlow
  rw [step_s1 hseq]
  refine ⟨fun hseen => ⟨_, congrArg _ (resetStep_edge hpin hlow hseen), ?edge⟩,
    fun hseen => congrArg _ (resetStep_held hpin hlow hseen)⟩
  case edge =>
    exact ⟨rfl, rfl, rfl, rfl, rfl, rfl, rfl, rfl, rfl, rfl, rfl, rfl, rfl, rfl, tableOf_resetFields _,
      fun _ => flags_resetFields, ⟨rfl, rfl, rfl, rfl⟩, rfl⟩

/-! ## The listen step (45_scheduler R905 to R907) -/

/-- `atn_hardware_override(enable)` writes CTRL, where that pin is wired (40_timing R406). -/
theorem override_eq (enable : Bool) (s : State) : override enable s = { s with
    drv := { s.drv with ctrlOn := if s.cfg.hasCtrlPin then enable else s.drv.ctrlOn } } := by
  unfold override
  cases hpin : s.cfg.hasCtrlPin <;> rfl

theorem withCurrent_some (f : Nat → Res) (hcur : s.sel.current = some k) : withCurrent s f = f k := by
  simp [withCurrent, hcur]

theorem listenStep_off (h : s.bus.done = true ∨ s.bus.mode = .idle ∨ s.bus.mode = .talking) : listenStep s = .next s := by
  obtain h | h | h := h <;> simp [listenStep, h]

theorem listenStep_underAtn (hdone : s.bus.done = false) (hmode : s.bus.mode = .underAtn) :
    listenStep s = receiveDispatch s := by
  simp [listenStep, hdone, hmode]

theorem receiveDispatch_underAtn_clkHigh (hmode : s.bus.mode = .underAtn) (hclk : readLine s .clk = .high) :
    receiveDispatch s = iecReceive s := by
  simp [receiveDispatch, hmode, hclk]

theorem receiveDispatch_underAtn_clkLow (hmode : s.bus.mode = .underAtn) (hclk : readLine s .clk = .low) :
    receiveDispatch s = .next s := by
  simp [receiveDispatch, hmode, hclk]

section Listening

variable (hmode : s.bus.mode = .listening) (hcur : s.sel.current = some k)
include hmode

theorem listenAnswer_undecided {w : BitVec 8} (hw : w.msb = true) : listenAnswer w s = .next (override false s) := by
  simp [listenAnswer, hmode, hw]

theorem listenAnswer_refused : listenAnswer 0 s = failWith .deviceRefused (override false s) := by
  simp [listenAnswer, hmode]

theorem listenAnswer_accepted {w : BitVec 8} (hw : w.msb = false) (hne : w ≠ 0) :
    listenAnswer w s = receiveDispatch (override false s) := by
  simp only [listenAnswer, hmode, ne_eq, not_true, if_false, hw, Bool.false_eq_true, if_neg hne]

include hcur

theorem listenStep_listening (hdone : s.bus.done = false) :
    listenStep s = .next ((setInTick false (override true s)).call (.canWrite k) [.tick .canWrite]) := by
  simp [listenStep, hdone, hmode, withCurrent_some _ hcur]

/-- A listener's byte is received by the protocol the device was detected for (R907). -/
theorem receiveDispatch_jiffy (hjiffy : s.flag k .jiffyDetected = true) : receiveDispatch s = jiffyReceive k s := by
  simp [receiveDispatch, hmode, withCurrent_some _ hcur, hjiffy]

theorem receiveDispatch_clkLow (hjiffy : s.flag k .jiffyDetected = false) (hclk : readLine s .clk = .low) :
    receiveDispatch s = .next s := by
  simp [receiveDispatch, hmode, withCurrent_some _ hcur, hjiffy, hclk]

theorem receiveDispatch_dolphin (hjiffy : s.flag k .jiffyDetected = false) (hclk : readLine s .clk = .high)
    (hdolphin : s.flag k .dolphinDetected = true) : receiveDispatch s = dolReceive k s := by
  simp [receiveDispatch, hmode, withCurrent_some _ hcur, hjiffy, hclk, hdolphin]

theorem receiveDispatch_standard (hjiffy : s.flag k .jiffyDetected = false) (hclk : readLine s .clk = .high)
    (hdolphin : s.flag k .dolphinDetected = false) : receiveDispatch s = iecReceive s := by
  simp [receiveDispatch, hmode, withCurrent_some _ hcur, hjiffy, hclk, hdolphin]

end Listening

/-! ## The talk step (45_scheduler R908 to R910, 41_iec_core R547) -/

section Talk

variable {n : Nat}

theorem talkStep_off (h : s.bus.done = true ∨ s.bus.mode ≠ .talking) : talkStep s = .next s := by
  obtain h | h := h <;> simp [talkStep, h]

theorem talkStep_talking (hmode : s.bus.mode = .talking) (hcur : s.sel.current = some k) (hdone : s.bus.done = false) :
    talkStep s = .next ((setInTick false (override true s)).call (.canRead k) [.tick (.canRead k)]) := by
  simp [talkStep, hdone, hmode, withCurrent_some _ hcur]

theorem talkAnswer_undecided (hmode : s.bus.mode = .talking) {w : BitVec 8} (hw : w.msb = true) :
    talkAnswer k w s = .next (override false s) := by
  simp [talkAnswer, hmode, hw]

theorem talkAnswer_ready (hmode : s.bus.mode = .talking) {w : BitVec 8} (hw : w.msb = false) :
    talkAnswer k w s = transmitDispatch k w.toNat (override false s) := by
  simp [talkAnswer, hmode, hw]

/-- Before its band the talk gap is waited for. -/
theorem transmitDispatch_early (hfirst : s.talk.txFirst = false)
    (hearly : elapsed s s.talk.lastTxTime + s.cfg.tTol < s.cfg.tIecTalkGap) : transmitDispatch k n s =
    .next (s.hold (s.cfg.tIecTalkGap - elapsed s s.talk.lastTxTime) [.tick (.transmit k n)]) :=
  if_pos ⟨hfirst, timeUp_before_band (by omega) _⟩

/-- The first byte of a talk, and one after the band of the gap, is sent at once. -/
theorem transmitDispatch_now (h : s.talk.txFirst = true ∨
      s.cfg.tIecTalkGap + s.cfg.tTol ≤ elapsed s s.talk.lastTxTime) :
    transmitDispatch k n s = transmitNow k n s := by
  refine if_neg fun ⟨hnot, hgap⟩ => ?_
  obtain hfirst | hlate := h
  · exact absurd hfirst (Bool.eq_false_iff.1 hnot)
  · exact absurd (timeUp_after_band (by omega) _) (Bool.eq_false_iff.1 hgap)

/-- A talker's byte is sent in block mode, or by the protocol the device was detected for (R910). -/
theorem transmitNow_blockStep (hblock : s.flag k .jiffyBlock = true) : transmitNow k n s = jiffyBlockStep k n s :=
  if_pos hblock

theorem transmitNow_jiffy (hblock : s.flag k .jiffyBlock = false) (hjiffy : s.flag k .jiffyDetected = true) :
    transmitNow k n s = jiffyTransmit k n s := by
  simp [transmitNow, hblock, hjiffy]

theorem transmitNow_dolphin (hblock : s.flag k .jiffyBlock = false) (hjiffy : s.flag k .jiffyDetected = false)
    (hdolphin : s.flag k .dolphinDetected = true) : transmitNow k n s = dolTransmit k n s := by
  simp [transmitNow, hblock, hjiffy, hdolphin]

end Talk

/-- Settles O59: `listenStep` and `talkStep` ask the device, `listenAnswer` and `talkAnswer` read its answer, and
`receiveDispatch` and `transmitNow` choose the protocol. -/
theorem listenAndTalkStepsAskTheDeviceFirst : Obligations.ListenAndTalkStepsAskTheDeviceFirst := by
  refine ⟨fun s rest => ⟨fun hseq hoff => ?listenOff, fun hseq hoff => ?talkOff, fun hseq hdone hmode => ?underAtn⟩,
    fun s u k w rest hmode hcur hu => ⟨fun hseq hdone => ?canWrite, fun hseq => step_tick hseq, fun hseq => ?listen⟩,
    fun s u k m n rest hmode hcur hu => ⟨fun hseq hdone => ?canRead, fun hseq => step_tick hseq, fun hseq => ?talk,
      fun hseq => ?transmit⟩⟩
  case listenOff => exact (step_tick hseq).trans (listenStep_off (s := { s with seq := .tick .s6 :: rest }) hoff)
  case talkOff => exact (step_tick hseq).trans (talkStep_off (s := { s with seq := .tick .s7 :: rest }) hoff)
  case underAtn =>
    have receives := (step_tick hseq).trans (listenStep_underAtn (s := { s with seq := .tick .s6 :: rest }) hdone hmode)
    exact ⟨fun hclk => receives.trans (receiveDispatch_underAtn_clkHigh hmode hclk),
      fun hclk => receives.trans (receiveDispatch_underAtn_clkLow hmode hclk)⟩
  case canWrite =>
    refine (step_tick hseq).trans ((listenStep_listening (s := { s with seq := .tick .s6 :: rest }) hmode hcur
      hdone).trans ?_)
    rw [override_eq]
    rfl
  case listen =>
    have answered : step s = listenAnswer w { s with seq := rest } := step_tick hseq
    have released : override false { s with seq := rest } = u := (override_eq false _).trans hu.symm
    have mode : u.bus.mode = .listening := hu ▸ hmode
    have current : u.sel.current = some k := hu ▸ hcur
    have flags (f : ProtoFlag) : s.flag k f = u.flag k f := by rw [hu]; rfl
    rw [answered, ← released]
    refine ⟨listenAnswer_undecided (s := { s with seq := rest }) hmode,
      fun hw => hw ▸ listenAnswer_refused (s := { s with seq := rest }) hmode, fun hw hne => ?_⟩
    rw [listenAnswer_accepted (s := { s with seq := rest }) hmode hw hne, released, flags, flags]
    exact ⟨receiveDispatch_jiffy mode current, receiveDispatch_clkLow mode current, fun hjiffy hclk =>
      ⟨receiveDispatch_dolphin mode current hjiffy hclk, receiveDispatch_standard mode current hjiffy hclk⟩⟩
  case canRead =>
    refine (step_tick hseq).trans ((talkStep_talking (s := { s with seq := .tick .s7 :: rest }) hmode hcur
      hdone).trans ?_)
    rw [override_eq]
    rfl
  case talk =>
    subst hu
    have answered : step s = talkAnswer k n { s with seq := rest } := step_tick hseq
    have ready (hn : n.msb = false) :=
      answered.trans (talkAnswer_ready (k := k) (s := { s with seq := rest }) hmode hn)
    rw [override_eq] at ready
    refine ⟨fun hn => answered.trans ?undecided, fun hn hfirst hearly => (ready hn).trans ?early,
      fun hn hgap => (ready hn).trans ?now⟩
    case undecided =>
      exact (talkAnswer_undecided (s := { s with seq := rest }) hmode hn).trans (congrArg _ (override_eq false _))
    case early => exact transmitDispatch_early (by exact hfirst) (by exact hearly)
    case now =>
      rw [transmitDispatch_now (by exact hgap), step_tick rfl]
      rfl
  case transmit =>
    have sends : step s = transmitNow k m { s with seq := rest } := step_tick hseq
    exact sends ▸ ⟨transmitNow_blockStep (s := { s with seq := rest }), transmitNow_jiffy (s := { s with seq := rest }),
      fun hblock hjiffy => ⟨transmitNow_dolphin (s := { s with seq := rest }) hblock hjiffy,
        transmitNow_standard (s := { s with seq := rest }) hblock hjiffy⟩⟩

/-! ## The end of the tick (45_scheduler R900, R911, R914) -/

/-- The end of the tick polls ATN again; `in_tick` is no part of that test. -/
theorem tickFinish_unmasked (hmask : s.fl.irqMasked = false) : tickFinish s =
    if atnMismatch s then
      .next (atnRequest { s with seq := .tick .posted :: s.seq, fl := { s.fl with inTick := true } })
    else .next { s with fl := { s.fl with inTick := false } } :=
  if_neg (Bool.eq_false_iff.1 hmask)

theorem atnMismatch_fall (hlow : readLine s .atn = .low) (hatn : s.fl.atnActive = false) : atnMismatch s = true := by
  simp [atnMismatch, readLine_eq_low_iff.1 hlow, hatn]

/-- Settles O60: S8 puts the calls of `task()` on the sequencer, and `tickFinish` follows them. -/
theorem tickEndsWithTasksAndThePostPoll : Obligations.TickEndsWithTasksAndThePostPoll := by
  intro s rest
  have finish (hseq : s.seq = .tick .finish :: rest) (hmask : s.fl.irqMasked = false) :=
    (step_tick hseq).trans (tickFinish_unmasked (s := { s with seq := rest }) hmask)
  refine ⟨fun hseq => ?tasks, fun hseq hmask hsame => (finish hseq hmask).trans (if_neg (Bool.eq_false_iff.1 hsame)),
    fun hseq hmask hlow hatn => (finish hseq hmask).trans ((if_pos (atnMismatch_fall hlow hatn)).trans ?fall)⟩
  case tasks =>
    rw [step_tick hseq]
    simp only [runTick, State.push, List.append_assoc, List.singleton_append]
    rfl
  case fall => exact congrArg _ (atnRequest_fall (s := { s with
    seq := .tick .posted :: rest
    fl := { s.fl with inTick := true } }) hlow hatn)

end Sys2Proof.Machine

/-! # Proofs for 60_exceptions: the faults of the model, and the calls it refuses -/

namespace Sys2Proof.Machine

variable {s : State} {rest : List Pos} {c : Cfg} {pin : Nat}

/-! ## The conditions that stop the machine (60_exceptions R1006, R1021) -/

theorem maskIrq_masked (hmask : s.fl.irqMasked = true) : maskIrq s = .fault .maskNested := if_pos hmask

theorem tickFinish_masked (hmask : s.fl.irqMasked = true) : tickFinish s = .fault .maskLeak := if_pos hmask

theorem tickReturn_masked (hmask : s.fl.irqMasked = true) : tickReturn s = .fault .maskLeak := if_pos hmask

theorem runDol_returned_parOut (hpar : s.drv.parOutMode = true) : runDol .returned s = .fault .parDirLeak :=
  if_pos hpar

theorem withinContract_readInto {k cap : Nat} {a : Answer} :
    withinContract (.readInto k cap) a = true ↔ a.bytes.length ≤ cap :=
  decide_eq_true_iff

theorem returnCall_outside {call : DevCall} {a : Answer} (hout : ¬ withinContract call a = true) :
    returnCall call a s = .fault .deviceContract :=
  if_neg hout

/-- Settles O17: each fault is the first test of the operation that its site runs. -/
theorem modelFaultsStopTheMachine : Obligations.ModelFaultsStopTheMachine := by
  refine ⟨fun s => ⟨rfl, rfl⟩, fun s => maskIrq_masked, fun s k cap rest a more hseq hfeed hlong => ?answer,
    fun s rest hseq hmask => ?leak, fun s rest hseq hpar => ?bus⟩
  case answer =>
    exact (step_engineMove hseq hfeed).trans
      (returnCall_outside fun hwithin => Nat.not_le.2 hlong (withinContract_readInto.1 hwithin))
  case leak =>
    obtain hbody | hpoll := hseq
    · exact (step_tick hbody).trans (tickFinish_masked (s := { s with seq := rest }) hmask)
    · exact (step_tick hpoll).trans (tickReturn_masked (s := { s with seq := rest }) hmask)
  case bus => exact (step_dol hseq).trans (runDol_returned_parOut (s := { s with seq := rest }) hpar)

/-! ## The calls of the main loop (70_reset R1100 to R1103, R1112, R1113, 60_exceptions R1018) -/

/-- During a device call the main loop does not have control. -/
theorem between_call {call : DevCall} (hseq : s.seq = .yield (.call call) :: rest) : ¬ between s = true := by
  simp [between, hseq]

theorem hostBegin_begun (hlife : s.life = .begun) : hostBegin s = .refused .secondBegin := if_pos hlife

theorem hostAdd_begun {h : Handle} {flags : BitVec 12} (hlife : s.life = .begun) :
    hostAdd h flags s = .refused .addAfterBegin :=
  if_pos hlife

theorem hostTick_notBegun (hlife : s.life ≠ .begun) : hostTick s = .refused .tickBeforeBegin := if_pos hlife

theorem hostTick_busy (hlife : s.life = .begun) (hbusy : ¬ between s = true) :
    hostTick s = .refused .tickInTick :=
  (if_neg (not_not_intro hlife)).trans (if_neg hbusy)

theorem hostConstruct_registryFull (hlife : s.life ≠ .unbuilt) (hfull : s.cfg.maxEngines ≤ s.registry.length) :
    hostConstruct c pin s = .refused .thirdEngine :=
  (if_neg hlife).trans (if_pos hfull)

theorem hostConstruct_badConfig (hlife : s.life = .unbuilt) (hfree : s.registry.length < c.maxEngines)
    (hbad : cfgOk c = false) : hostConstruct c pin s = .refused .badConfig :=
  (if_pos hlife).trans ((if_neg (Nat.not_le.2 hfree)).trans (if_pos (by rw [hbad]; rfl)))

/-- Every feature's minimum of the buffer is part of `cfgOk` (70_reset R1100). -/
theorem bufSize_of_cfgOk (hok : cfgOk c = true) :
    (c.featEpyx = true → 32 ≤ c.bufSize) ∧ (c.featDolphin = true → 2 ≤ c.bufSize) ∧
      (c.sectorOps = true → 256 ≤ c.bufSize) := by
  simp only [cfgOk, Bool.and_eq_true, Bool.or_eq_true, Bool.not_eq_true', decide_eq_true_iff,
    ← Bool.not_eq_true, ← imp_iff_not_or] at hok
  obtain ⟨⟨⟨⟨⟨⟨hepyx, hdolphin⟩, hsector⟩, -⟩, -⟩, -⟩, -⟩ := hok
  exact ⟨hepyx, hdolphin, hsector⟩

theorem cfgOk_smallBuffer (hsmall : c.featEpyx = true ∧ c.bufSize < 32 ∨ c.featDolphin = true ∧ c.bufSize < 2 ∨
      c.sectorOps = true ∧ c.bufSize < 256) :
    cfgOk c = false := by
  refine Bool.eq_false_iff.2 fun hok => ?_
  obtain ⟨hepyx, hdolphin, hsector⟩ := bufSize_of_cfgOk hok
  obtain ⟨hon, hlt⟩ | ⟨hon, hlt⟩ | ⟨hon, hlt⟩ := hsmall
  · exact Nat.not_le.2 hlt (hepyx hon)
  · exact Nat.not_le.2 hlt (hdolphin hon)
  · exact Nat.not_le.2 hlt (hsector hon)

/-- Settles O23: each call's refusals, by the life of the engine, who has control, and `cfgOk`. -/
theorem hostCallsOutOfTurnAreRefused : Obligations.HostCallsOutOfTurnAreRefused :=
  ⟨fun _ => hostBegin_begun, fun _ => hostTick_notBegun,
    fun _ _ _ hlife hseq => hostTick_busy hlife (between_call hseq), fun _ _ _ => hostAdd_begun,
    fun _ _ _ => hostConstruct_registryFull,
    fun _ _ _ hlife hfree hsmall => hostConstruct_badConfig hlife hfree (cfgOk_smallBuffer hsmall)⟩

end Sys2Proof.Machine
